-- ==== Sys2Proof/Word.lean ====
section
/-! DEFINITION. Word.lean: the widths of the values the device and its bus carry. -/

namespace Sys2Proof

/-- One byte of system memory (20_memory.md R35). -/
abbrev Byte := BitVec 8

/-- The 32-bit registers and DMA words (00_scope.md R6, `REG_WIDTH`, `WORD_BYTES`). -/
abbrev Word := BitVec 32

/-- The 64-bit accumulator `bitCount` (00_scope.md R6, `BITCOUNT_WIDTH`). -/
abbrev Count := BitVec 64

/-- The value of a bus transaction (30_encoding.md R50): "an unsigned integer" of `8 * width` bits (20_memory.md R41),
`width` from 1 to 64. That it fits its width is `Transaction.Wf`. -/
abbrev BusValue := Nat

/-- The tabulation key of 30_encoding.md R56. -/
abbrev Key := BitVec 10

end Sys2Proof
end

