-- ==== Sys2Proof/Config.lean ====
section
/-! DEFINITION. Config.lean: the record `Cfg` of 00_scope.md R7, fixed when the device is created, its two named
presets, and the configuration of this hardware. `Cfg` is plain data and stands in State, so a statement about every
state is a statement about every configuration. -/

namespace Sys2Proof

/-- `REG0_MODE` (00_scope.md R7): what offset 0x00 of the main window is. -/
inductive Reg0Mode where
  | dataIn
  | control
  deriving DecidableEq, Repr

/-- `SINK_MODE` (00_scope.md R7): what the DMA engine does with each word. -/
inductive SinkMode where
  | accumulate
  | relay
  deriving DecidableEq, Repr

/-- `STATUS_MODE` (00_scope.md R7): what a status read returns. -/
inductive StatusMode where
  | idle
  | stored
  deriving DecidableEq, Repr

/-- A run of guest-physical byte addresses `base .. base + size - 1` that the platform backs with system memory
(20_memory.md R35, R37). -/
structure MemRegion where
  base : Nat
  size : Nat
  deriving DecidableEq, Repr

/-- The configuration parameters of 00_scope.md R7. -/
structure Cfg where
  /-- `REG0_MODE` -/
  reg0Mode    : Reg0Mode
  /-- `SINK_MODE` -/
  sinkMode    : SinkMode
  /-- `STATUS_MODE` -/
  statusMode  : StatusMode
  /-- `STATUS_IDLE`: OPEN, no rule needs a value (92_eei_decisions.md D2). -/
  statusIdle  : Word
  /-- `RELAY_DEST`: OPEN (92_eei_decisions.md D17). -/
  relayDest   : Nat
  /-- `DEVICE_BASE`: OPEN, the argument of `createDevice`. -/
  deviceBase  : Nat
  /-- `RESET_OFFSET`: OPEN (92_eei_decisions.md D5). -/
  resetOffset : Nat
  /-- `MAIN_SPAN` (92_eei_decisions.md D4). -/
  mainSpan    : Nat
  /-- `RESET_SPAN` (92_eei_decisions.md D4). -/
  resetSpan   : Nat
  /-- `BadRead` as a table from width in bytes to value; a width it does not list reads as 0
  (92_eei_decisions.md D3; log 9). -/
  badRead     : List (Nat × BusValue)
  /-- `PA_WIDTH`: OPEN, at least 33 (92_eei_decisions.md D15). -/
  paWidth     : Nat
  /-- The system memory the platform supplies (20_memory.md R37; log 3). -/
  ram         : List MemRegion
  deriving DecidableEq, Repr

/-- Free value: the `STATUS_IDLE` of the device that exists at reset (92_eei_decisions.md D2; log 2). -/
opaque Config.statusIdle : Word

/-- Free value: the `RELAY_DEST` of the device that exists at reset (92_eei_decisions.md D17; log 2). -/
opaque Config.relayDest : Nat

/-- Free value: the system memory of the platform at reset (20_memory.md R37; log 2). -/
opaque Config.ram : List MemRegion

/-- The preset `CFG_POPCOUNT` of 00_scope.md R9, over any values of the other parameters. -/
def Cfg.popcountPreset (c : Cfg) : Cfg :=
  { c with reg0Mode := .dataIn, sinkMode := .accumulate, statusMode := .idle }

/-- The preset `CFG_DMA` of 00_scope.md R9, over any values of the other parameters. -/
def Cfg.dmaPreset (c : Cfg) : Cfg :=
  { c with reg0Mode := .control, sinkMode := .relay, statusMode := .stored }

/-- The configuration of the device that exists at reset: the default preset `CFG_POPCOUNT` (00_scope.md R9), the
values R7 gives, free values for `STATUS_IDLE`, `RELAY_DEST` and the memory map (log 2), and a placement of the windows
(DESIGN CHOICE, log 1). -/
def Cfg.hardware : Cfg where
  reg0Mode    := .dataIn
  sinkMode    := .accumulate
  statusMode  := .idle
  statusIdle  := Config.statusIdle
  relayDest   := Config.relayDest
  deviceBase  := 0
  resetOffset := 0x100
  mainSpan    := 0x2C
  resetSpan   := 4
  badRead     := []
  paWidth     := 64
  ram         := Config.ram

end Sys2Proof
end

