-- ==== Sys2Proof/Syntax.lean ====
section
/-! DEFINITION. Syntax.lean: bus transactions (30_encoding.md R50) and the 14 operations they decode to
(30_encoding.md R60), one constructor of `Instr` for each row of opcode_table.json. -/

namespace Sys2Proof

/-- `rw` of 30_encoding.md R50. -/
inductive Direction where
  | read
  | write
  deriving DecidableEq, Repr

/-- A bus transaction (30_encoding.md R50): absolute byte address, width in bytes, and for a write the value,
an unsigned integer of `8 * width` bits. -/
inductive Transaction where
  | read  (addr width : Nat)
  | write (addr width : Nat) (value : BusValue)
  deriving DecidableEq, Repr

/-- The widths the reset window accepts (20_memory.md R34). -/
inductive ResetWidth where
  | one
  | two
  | four
  deriving DecidableEq, Repr

/-- The value of a reset write, at the width of its access (30_encoding.md R59 (c)). -/
inductive ResetData where
  | byte (v : BitVec 8)
  | half (v : BitVec 16)
  | word (v : BitVec 32)
  deriving DecidableEq, Repr

/-- The operations of 30_encoding.md R60. -/
inductive Instr where
  /-- `RD.CONTROL` -/
  | rdControl
  /-- `WR.CONTROL` -/
  | wrControl (value : Word)
  /-- `RD.BITCOUNT` -/
  | rdBitcount
  /-- `WR.DATAIN` -/
  | wrDatain (value : Word)
  /-- `RD.STATUS` -/
  | rdStatus
  /-- `WR.STATUS` -/
  | wrStatus (value : Word)
  /-- `RD.SRCADDR` -/
  | rdSrcaddr
  /-- `WR.SRCADDR` -/
  | wrSrcaddr (value : Word)
  /-- `RD.LENGTH` -/
  | rdLength
  /-- `WR.LENGTH` -/
  | wrLength (value : Word)
  /-- `RD.RESET` -/
  | rdReset (width : ResetWidth)
  /-- `WR.RESET` -/
  | wrReset (data : ResetData)
  /-- `RD.REJECT` -/
  | rdReject (addr width : Nat)
  /-- `WR.REJECT` -/
  | wrReject (addr width : Nat) (value : BusValue)
  deriving DecidableEq, Repr

/-- The row of the operation map an instruction stands for, without its operands. -/
inductive Op where
  | rdControl
  | wrControl
  | rdBitcount
  | wrDatain
  | rdStatus
  | wrStatus
  | rdSrcaddr
  | wrSrcaddr
  | rdLength
  | wrLength
  | rdReset
  | wrReset
  | rdReject
  | wrReject
  deriving DecidableEq, Repr

/-- The pseudo-operations of 30_encoding.md R65: other names for one or two operations. -/
inductive PseudoOp where
  /-- `POPCNT v` -/
  | popcnt (value : Word)
  /-- `COUNT` -/
  | count
  /-- `DMA src, len` -/
  | dma (source length : Word)
  /-- `SOFTRESET` -/
  | softReset
  deriving DecidableEq, Repr

def Transaction.direction : Transaction → Direction
  | .read _ _ => .read
  | .write _ _ _ => .write

def Transaction.addr : Transaction → Nat
  | .read a _ => a
  | .write a _ _ => a

def Transaction.width : Transaction → Nat
  | .read _ w => w
  | .write _ w _ => w

def Instr.op : Instr → Op
  | .rdControl => .rdControl
  | .wrControl _ => .wrControl
  | .rdBitcount => .rdBitcount
  | .wrDatain _ => .wrDatain
  | .rdStatus => .rdStatus
  | .wrStatus _ => .wrStatus
  | .rdSrcaddr => .rdSrcaddr
  | .wrSrcaddr _ => .wrSrcaddr
  | .rdLength => .rdLength
  | .wrLength _ => .wrLength
  | .rdReset _ => .rdReset
  | .wrReset _ => .wrReset
  | .rdReject _ _ => .rdReject
  | .wrReject _ _ _ => .wrReject

def ResetWidth.bytes : ResetWidth → Nat
  | .one => 1
  | .two => 2
  | .four => 4

def ResetData.bytes : ResetData → Nat
  | .byte _ => 1
  | .half _ => 2
  | .word _ => 4

end Sys2Proof
end

