-- ==== Sys2Proof/Decode.lean ====
section
/-! DEFINITION. Decode.lean: the Bus Dispatcher's decode (30_encoding.md R51 to R55), the tabulation key and the
match-and-mask rows of the operation map (R56, R60), and the encoder. -/

namespace Sys2Proof

/-- Register offsets (00_scope.md R6). -/
def offReg0 : Nat := 0x00
def offStatus : Nat := 0x04
def offSrcaddr : Nat := 0x18
def offLength : Nat := 0x28
/-- The reset register's offset in its own window (00_scope.md R6; 20_memory.md R33). -/
def offReset : Nat := 0x00

/-- The two register windows (20_memory.md R32, R33). -/
inductive Window where
  | main
  | reset
  deriving DecidableEq, Repr

/-- The declared registers of the two windows (30_encoding.md R55, R58). -/
inductive Register where
  | reg0
  | status
  | srcaddr
  | length
  | reset
  deriving DecidableEq, Repr

/-- Why an input is no transaction of 30_encoding.md R50. -/
inductive DecodeError where
  /-- `width` is not in 1 to 64 -/
  | widthOutsideFormat
  /-- `addr` does not fit `PA_WIDTH` bits -/
  | addressOutsideFormat
  /-- `value` does not fit `8 * width` bits -/
  | valueOutsideFormat
  deriving DecidableEq, Repr

/-- `RESET_BASE = DEVICE_BASE + RESET_OFFSET` (20_memory.md R33). -/
def Cfg.resetBase (c : Cfg) : Nat := c.deviceBase + c.resetOffset

/-- The first byte address of a window. -/
def Cfg.windowBase (c : Cfg) : Window → Nat
  | .main => c.deviceBase
  | .reset => c.resetBase

/-- Region selection (30_encoding.md R52): the address of the lowest byte picks the window and the offset in it. -/
def Cfg.selectWindow (c : Cfg) (addr : Nat) : Option (Window × Nat) :=
  if c.deviceBase ≤ addr ∧ addr < c.deviceBase + c.mainSpan then some (.main, addr - c.deviceBase)
  else if c.resetBase ≤ addr ∧ addr < c.resetBase + c.resetSpan then some (.reset, addr - c.resetBase)
  else none

/-- `minWidth` of 30_encoding.md R53. -/
def Window.minWidth : Window → Nat
  | .main => 4
  | .reset => 1

/-- `maxWidth` of 30_encoding.md R53. -/
def Window.maxWidth : Window → Nat
  | .main => 4
  | .reset => 4

/-- Width check (30_encoding.md R53). -/
abbrev Window.AcceptsWidth (r : Window) (width : Nat) : Prop :=
  width ∈ [1, 2, 4, 8] ∧ r.minWidth ≤ width ∧ width ≤ r.maxWidth

/-- Offset match (30_encoding.md R55). -/
def Window.declaredRegister : Window → Nat → Option Register
  | .main, off =>
    if off = offReg0 then some .reg0
    else if off = offStatus then some .status
    else if off = offSrcaddr then some .srcaddr
    else if off = offLength then some .length
    else none
  | .reset, off => if off = offReset then some .reset else none

/-- The checks R52 to R54: the window and offset of an access that passes them (the key of R56 is formed from these). -/
def Cfg.placeOf (c : Cfg) (addr width : Nat) : Option (Window × Nat) :=
  match c.selectWindow addr with
  | some (r, off) => if r.AcceptsWidth width ∧ off % width = 0 then some (r, off) else none
  | none => none

/-- All checks R52 to R55, in that order: the register an accepted access reaches. -/
def Cfg.acceptedRegister (c : Cfg) (addr width : Nat) : Option Register :=
  match c.placeOf addr width with
  | some (r, off) => r.declaredRegister off
  | none => none

def ResetWidth.ofBytes (n : Nat) : ResetWidth :=
  if n = 1 then .one else if n = 2 then .two else .four

/-- The value of a reset write at its own width (30_encoding.md R59 (c)). -/
def ResetData.ofBus (width : Nat) (v : BusValue) : ResetData :=
  if width = 1 then .byte (BitVec.ofNat 8 v) else if width = 2 then .half (BitVec.ofNat 16 v)
  else .word (BitVec.ofNat 32 v)

def ResetData.toBus : ResetData → BusValue
  | .byte v => v.toNat
  | .half v => v.toNat
  | .word v => v.toNat

/-- The 32 bits a 4-byte access carries (40_register_file.md R79). -/
def wordOfBus (v : BusValue) : Word := BitVec.ofNat 32 v

/-- A 32-bit value on the bus: zero-extended, never sign-extended (00_scope.md 5.1). -/
def busOfWord (w : Word) : BusValue := w.toNat

/-- Which operation a read is (30_encoding.md R55, R60). -/
def Cfg.dispatchRead (c : Cfg) (addr width : Nat) : Instr :=
  match c.acceptedRegister addr width with
  | some .reg0 =>
    match c.reg0Mode with
    | .control => .rdControl
    | .dataIn => .rdBitcount
  | some .status => .rdStatus
  | some .srcaddr => .rdSrcaddr
  | some .length => .rdLength
  | some .reset => .rdReset (.ofBytes width)
  | none => .rdReject addr width

/-- Which operation a write is (30_encoding.md R55, R60). -/
def Cfg.dispatchWrite (c : Cfg) (addr width : Nat) (value : BusValue) : Instr :=
  match c.acceptedRegister addr width with
  | some .reg0 =>
    match c.reg0Mode with
    | .control => .wrControl (wordOfBus value)
    | .dataIn => .wrDatain (wordOfBus value)
  | some .status => .wrStatus (wordOfBus value)
  | some .srcaddr => .wrSrcaddr (wordOfBus value)
  | some .length => .wrLength (wordOfBus value)
  | some .reset => .wrReset (.ofBus width value)
  | none => .wrReject addr width value

/-- What keeps an input from being a transaction of 30_encoding.md R50. -/
def Cfg.formatError (c : Cfg) : Transaction → Option DecodeError
  | .read a w =>
    if w < 1 ∨ 64 < w then some .widthOutsideFormat
    else if 2 ^ c.paWidth ≤ a then some .addressOutsideFormat
    else none
  | .write a w v =>
    if w < 1 ∨ 64 < w then some .widthOutsideFormat
    else if 2 ^ c.paWidth ≤ a then some .addressOutsideFormat
    else if 2 ^ (8 * w) ≤ v then some .valueOutsideFormat
    else none

/-- The Bus Dispatcher's decode (30_encoding.md R51): every transaction of R50 decodes to one of the 14 operations; an
input outside the format of R50 is rejected by name (log 11). -/
def decode (c : Cfg) (t : Transaction) : Except DecodeError Instr :=
  match c.formatError t with
  | some e => .error e
  | none =>
    match t with
    | .read a w => .ok (c.dispatchRead a w)
    | .write a w v => .ok (c.dispatchWrite a w v)

/-! ## The encoder -/

/-- The transaction of an operation (the `Transaction` line of each operation's rule, 40_register_file.md R70 to R81,
42_dma.md R100, 43_bus_dispatcher.md R122, R123). -/
def encode (c : Cfg) : Instr → Transaction
  | .rdControl => .read (c.deviceBase + offReg0) 4
  | .wrControl v => .write (c.deviceBase + offReg0) 4 (busOfWord v)
  | .rdBitcount => .read (c.deviceBase + offReg0) 4
  | .wrDatain v => .write (c.deviceBase + offReg0) 4 (busOfWord v)
  | .rdStatus => .read (c.deviceBase + offStatus) 4
  | .wrStatus v => .write (c.deviceBase + offStatus) 4 (busOfWord v)
  | .rdSrcaddr => .read (c.deviceBase + offSrcaddr) 4
  | .wrSrcaddr v => .write (c.deviceBase + offSrcaddr) 4 (busOfWord v)
  | .rdLength => .read (c.deviceBase + offLength) 4
  | .wrLength v => .write (c.deviceBase + offLength) 4 (busOfWord v)
  | .rdReset w => .read (c.resetBase + offReset) w.bytes
  | .wrReset d => .write (c.resetBase + offReset) d.bytes d.toBus
  | .rdReject a w => .read a w
  | .wrReject a w v => .write a w v

/-- The fixed expansion of a pseudo-operation (30_encoding.md R65), in the order it is issued. -/
def PseudoOp.expand (c : Cfg) : PseudoOp → List Transaction
  | .popcnt v => [.write (c.deviceBase + offReg0) 4 (busOfWord v)]
  | .count => [.read (c.deviceBase + offReg0) 4]
  | .dma src len =>
    [.write (c.deviceBase + offSrcaddr) 4 (busOfWord src), .write (c.deviceBase + offLength) 4 (busOfWord len)]
  | .softReset => [.write (c.resetBase + offReset) 4 1]

/-! ## The operation map as match and mask rows (30_encoding.md R56, R60) -/

def Direction.keyBit : Direction → BitVec 1
  | .read => 0
  | .write => 1

def Window.keyBit : Window → BitVec 1
  | .main => 0
  | .reset => 1

/-- `key = rw ‖ region ‖ offset` (30_encoding.md R56). -/
def keyOf (d : Direction) (r : Window) (off : Nat) : Key :=
  d.keyBit ++ r.keyBit ++ BitVec.ofNat 8 off

/-- The key a transaction forms when it passes the checks R52 to R54. -/
def Cfg.formKey (c : Cfg) (t : Transaction) : Option Key :=
  match c.placeOf t.addr t.width with
  | some (r, off) => some (keyOf t.direction r off)
  | none => none

/-- One row of the operation map (30_encoding.md R60). -/
structure OpRow where
  op : Op
  bits : Key
  mask : Key
  /-- the `REG0_MODE` the row exists in, or `none` for "always" -/
  existsWhen : Option Reg0Mode
  deriving DecidableEq, Repr

/-- The rows of 30_encoding.md R60 (opcode_table.json), in the order they are tried. -/
def opTable : List OpRow :=
  [⟨.rdControl, 0x000, 0x3FF, some .control⟩, ⟨.wrControl, 0x200, 0x3FF, some .control⟩,
   ⟨.rdBitcount, 0x000, 0x3FF, some .dataIn⟩, ⟨.wrDatain, 0x200, 0x3FF, some .dataIn⟩,
   ⟨.rdStatus, 0x004, 0x3FF, none⟩, ⟨.wrStatus, 0x204, 0x3FF, none⟩,
   ⟨.rdSrcaddr, 0x018, 0x3FF, none⟩, ⟨.wrSrcaddr, 0x218, 0x3FF, none⟩,
   ⟨.rdLength, 0x028, 0x3FF, none⟩, ⟨.wrLength, 0x228, 0x3FF, none⟩,
   ⟨.rdReset, 0x100, 0x3FF, none⟩, ⟨.wrReset, 0x300, 0x3FF, none⟩,
   ⟨.rdReject, 0x000, 0x200, none⟩, ⟨.wrReject, 0x200, 0x200, none⟩]

def OpRow.presentIn (row : OpRow) (m : Reg0Mode) : Bool :=
  match row.existsWhen with
  | some m' => m' == m
  | none => true

def OpRow.takes (row : OpRow) (m : Reg0Mode) (k : Key) : Bool :=
  row.presentIn m && k &&& row.mask == row.bits

/-- The REJECT operation of a direction: the catch-all that also takes a transaction that forms no key. -/
def Direction.rejectOp : Direction → Op
  | .read => .rdReject
  | .write => .wrReject

/-- The operation of a key: the first row, top to bottom, that takes it (30_encoding.md R60). -/
def lookupOp (m : Reg0Mode) (k : Key) : Option Op :=
  (opTable.find? (fun row => row.takes m k)).map OpRow.op

/-- The operation of a transaction read off the operation map. -/
def Cfg.tableOp (c : Cfg) (t : Transaction) : Op :=
  match c.formKey t with
  | some k => (lookupOp c.reg0Mode k).getD t.direction.rejectOp
  | none => t.direction.rejectOp

/-! ## Words numbered as opcode_table.json numbers them -/

/-- The transaction a table word stands for: bit 9 the direction, bit 8 the window, bits 7:0 the offset, and what the
table gives no bits, width 4 and value 0. A word with a bit above bit 9 is no key: it stands as a width-0 input, which
the decoder refuses (log 6). -/
def Cfg.tableTransaction (c : Cfg) (w : Nat) : Transaction :=
  if w < 1024 then
    let addr := c.windowBase (if w.testBit 8 then .reset else .main) + w % 256
    if w.testBit 9 then .write addr 4 0 else .read addr 4
  else .read 0 0

/-- The instruction the decoder reads from a word of opcode_table.json, on the configuration of this hardware. -/
def decodeTableWord (nbits w : Nat) : Option Instr :=
  match decode Cfg.hardware (Cfg.hardware.tableTransaction (w % 2 ^ nbits)) with
  | .ok i => some i
  | .error _ => none

end Sys2Proof
end

