-- ==== Sys2Proof/Machine/State.lean ====
section
/-! DEFINITION. Machine/State.lean: the Device State (10_state.md R10 to R17), the device's outputs (R24, R25,
60_exceptions.md R131), the host's system memory (R26) and the host's pending moves (92_eei_decisions.md D28), as plain
data; and the state after reset. -/

namespace Sys2Proof.Machine

/-- The response of a transaction (60_exceptions.md R131). -/
inductive Response where
  /-- `OKAY` -/
  | okay
  /-- `REJECTED` -/
  | rejected
  /-- `DMA_FAILED` -/
  | dmaFailed
  deriving DecidableEq, Repr

/-- The four error kinds (60_exceptions.md R130). -/
inductive ErrorKind where
  | outOfRangeAccess
  | memoryAccessFailure
  | reservedBitsSet
  | resetMisuse
  deriving DecidableEq, Repr

/-- A diagnostic log event (60_exceptions.md R137). -/
structure LogEvent where
  kind : ErrorKind
  direction : Direction
  addr : Nat
  width : Nat
  deriving DecidableEq, Repr

/-- What the device answers to a transaction (30_encoding.md R50): a response, and for a read `8 * width` bits. -/
inductive Reply where
  | read (response : Response) (width : Nat) (value : BusValue)
  | write (response : Response)
  deriving DecidableEq, Repr

/-- What the host can do to the machine (92_eei_decisions.md D28, D24). -/
inductive HostMove where
  /-- issue one transaction and wait for its response -/
  | issue (t : Transaction)
  /-- change one byte of its own memory -/
  | store (addr : Nat) (byte : Byte)
  /-- detach the device (70_reset_and_hazards.md R152) -/
  | detach
  /-- create a device (70_reset_and_hazards.md R150) -/
  | create (cfg : Cfg)
  /-- pulse a hardware reset, identical to creation (92_eei_decisions.md D24) -/
  | hardwareReset
  deriving DecidableEq, Repr

/-- System memory (20_memory.md R35): the bytes listed, addresses strictly rising, none equal to what an unlisted
address reads as. -/
abbrev Memory := List Host.Cell

/-- The machine. The first seven fields are the Device State of 10_state.md R10. -/
structure State where
  /-- 10_state.md R11 -/
  controlReg     : Word
  /-- 10_state.md R12 -/
  statusReg      : Word
  /-- 10_state.md R13 -/
  sourceAddress  : Word
  /-- 10_state.md R14; bits 31:26 are always 0 (R18) -/
  transferLength : Word
  /-- 10_state.md R15 -/
  writeScratch   : Word
  /-- 10_state.md R16 -/
  bitCount       : Count
  /-- 10_state.md R17 -/
  startFlag      : Bool
  /-- the interrupt line, asserted or not (10_state.md R24) -/
  interruptLine  : Bool
  /-- the diagnostic log, oldest first (10_state.md R25) -/
  log            : List LogEvent
  /-- the replies given so far, oldest first: outputs, which no operation reads (60_exceptions.md R131; log 7) -/
  replies        : List Reply
  /-- system memory, the host's (10_state.md R26) -/
  memory         : Memory
  /-- the configuration, fixed at creation (00_scope.md R7) -/
  cfg            : Cfg
  /-- the device exists (10_state.md R20) -/
  attached       : Bool
  /-- the host's moves still to come, oldest first (log 5) -/
  pending        : List HostMove
  deriving DecidableEq, Repr

/-- Why the machine would stop with a fault. Nothing raises one: "No behaviour in this device is treated as `fault` or
`stuck`" (93_implementation_defined.md, end of Part 1; log 19), so the type has no constructor. -/
inductive Fault : Type
  deriving DecidableEq, Repr

/-- Why a step has no meaning. -/
inductive Refusal where
  /-- Raised by `exec` for an instruction that has no meaning yet. Safe. -/
  | notModelled (mnemonic : String)
  /-- Raised by the four offset-0x00 operations when the configuration has the other `REG0_MODE`: the operation does not
  exist there (40_register_file.md R70 to R73; log 12). No decoded transaction meets it. Safe. -/
  | operationAbsent
  /-- Raised by a step whose input is no transaction of 30_encoding.md R50 (log 11). Safe. -/
  | malformedTransaction (e : DecodeError)
  /-- Raised by a step that addresses, resets or detaches a device that does not exist (10_state.md R20,
  92_eei_decisions.md D30; log 14). Safe. -/
  | detachedDevice
  /-- Raised by a step that creates a device while one exists: several devices are out of scope (00_scope.md R5 (a);
  log 14). Safe. -/
  | deviceAlreadyAttached
  /-- Raised by a step that creates a device with a configuration that breaks 00_scope.md R8. Safe. -/
  | configurationRefused
  /-- Raised by a step in which the host stores to an address that is no system memory (92_eei_decisions.md D28;
  log 15). Safe. -/
  | hostStoreOutsideMemory
  deriving DecidableEq, Repr

/-- A device just created with configuration `c` (10_state.md R27, 70_reset_and_hazards.md R150), over a memory with
nothing listed (log 4). -/
def State.creation (c : Cfg) : State where
  controlReg     := 0
  statusReg      := 0
  sourceAddress  := 0
  transferLength := 0
  writeScratch   := 0
  bitCount       := 0
  startFlag      := false
  interruptLine  := false
  log            := []
  replies        := []
  memory         := []
  cfg            := c
  attached       := true
  pending        := []

/-- The machine right after reset: creation with the configuration of this hardware. -/
def State.reset : State := State.creation Cfg.hardware

end Sys2Proof.Machine
end

