-- ==== Sys2Proof/Machine/Ops.lean ====
section
/-! DEFINITION. Machine/Ops.lean: the named operations over registers, outputs and system memory, and `raise`, the one
shared operation for an error kind (00_scope.md 5.4, 60_exceptions.md R130). The device has no trap entry and no trap
return (60_exceptions.md R139, R140). -/

namespace Sys2Proof

/-- The device's own two windows (20_memory.md R38). -/
def Cfg.inOwnWindow (c : Cfg) (a : Nat) : Bool :=
  (c.deviceBase ≤ a && a < c.deviceBase + c.mainSpan) || (c.resetBase ≤ a && a < c.resetBase + c.resetSpan)

def MemRegion.holds (r : MemRegion) (a : Nat) : Bool :=
  r.base ≤ a && a < r.base + r.size

/-- `Valid(addr)` (20_memory.md R36 to R38): the platform backs the byte, it lies below `2^PA_WIDTH`, and it is in
neither of the device's own windows. -/
def Cfg.isValid (c : Cfg) (a : Nat) : Bool :=
  a < 2 ^ c.paWidth && !c.inOwnWindow a && c.ram.any (fun r => r.holds a)

/-- Every byte of the block `addr .. addr + n - 1` is valid; addresses do not wrap (20_memory.md R36). -/
def Cfg.blockValid (c : Cfg) (addr n : Nat) : Bool :=
  (List.range n).all (fun j => c.isValid (addr + j))

end Sys2Proof

namespace Sys2Proof.Machine

/-! ## System memory -/

/-- What a valid byte that nothing has written reads as. DESIGN CHOICE, unsafe (log 4). -/
def unlistedByte : Byte := 0

/-- The canonical form of `Memory`. -/
abbrev Memory.Wf (m : Memory) : Prop :=
  m.Pairwise (fun x y => x.1 < y.1) ∧ ∀ x ∈ m, x.2 ≠ unlistedByte

/-- `Mem(a)` (20_memory.md R35). -/
def Memory.readByte : Memory → Nat → Byte
  | [], _ => unlistedByte
  | (a, b) :: rest, x => if x = a then b else Memory.readByte rest x

/-- `Mem(a) <- v` (20_memory.md R39), keeping the canonical form. -/
def Memory.writeByte : Memory → Nat → Byte → Memory
  | [], x, v => if v = unlistedByte then [] else [(x, v)]
  | (a, b) :: rest, x, v =>
    if x < a then (if v = unlistedByte then (a, b) :: rest else (x, v) :: (a, b) :: rest)
    else if x = a then (if v = unlistedByte then rest else (x, v) :: rest)
    else (a, b) :: Memory.writeByte rest x v

/-- `Mem(addr + j) <- v[j]` for every byte of the list (20_memory.md R39). -/
def Memory.writeBytes : Memory → Nat → List Byte → Memory
  | m, _, [] => m
  | m, addr, b :: bs => Memory.writeBytes (m.writeByte addr b) (addr + 1) bs

/-! ## One setter for each field an operation writes -/

def State.setControlReg (v : Word) (s : State) : State := { s with controlReg := v }
def State.setStatusReg (v : Word) (s : State) : State := { s with statusReg := v }
def State.setSourceAddress (v : Word) (s : State) : State := { s with sourceAddress := v }
def State.setTransferLength (v : Word) (s : State) : State := { s with transferLength := v }
def State.setWriteScratch (v : Word) (s : State) : State := { s with writeScratch := v }
def State.setBitCount (v : Count) (s : State) : State := { s with bitCount := v }
def State.setMemory (m : Memory) (s : State) : State := { s with memory := m }

/-- `Log(event)` (10_state.md R25): append to the diagnostic log. -/
def State.logEvent (e : LogEvent) (s : State) : State := { s with log := s.log ++ [e] }

/-- Give the reply of the transaction (60_exceptions.md R131). -/
def State.reply (r : Reply) (s : State) : State := { s with replies := s.replies ++ [r] }

/-- The host's next moves. -/
def State.setPending (p : List HostMove) (s : State) : State := { s with pending := p }

/-! ## The memory interface -/

/-- `MemRead(addr, n)` (20_memory.md R36): the block's bytes in ascending address order, or `none` for `Fail`. -/
def State.memRead (addr n : Nat) (s : State) : Option (List Byte) :=
  if s.cfg.blockValid addr n then some ((List.range n).map (fun j => s.memory.readByte (addr + j))) else none

/-- `MemWrite(addr, n, v)` (20_memory.md R39), `n` the length of `v`: all or nothing, `none` for `Fail`. -/
def State.memWrite (addr : Nat) (v : List Byte) (s : State) : Option State :=
  if s.cfg.blockValid addr v.length then some (s.setMemory (s.memory.writeBytes addr v)) else none

/-! ## Error kinds -/

/-- Which error kinds log an event (60_exceptions.md R130, column "logged"). -/
def ErrorKind.logged : ErrorKind → Bool
  | .outOfRangeAccess => true
  | .memoryAccessFailure => false
  | .reservedBitsSet => false
  | .resetMisuse => true

/-- The response an error kind gives (60_exceptions.md R130, column "response"); `unaffected` is the response the
operation has without it. -/
def ErrorKind.response (unaffected : Response) : ErrorKind → Response
  | .outOfRangeAccess => .rejected
  | .memoryAccessFailure => .dmaFailed
  | .reservedBitsSet => unaffected
  | .resetMisuse => .okay

/-- `raise <ErrorKind>(info)` (00_scope.md 5.4): it may append a log event; it saves nothing, masks nothing and
transfers no control (60_exceptions.md R139). -/
def State.raise (k : ErrorKind) (d : Direction) (addr width : Nat) (s : State) : State :=
  if k.logged then s.logEvent ⟨k, d, addr, width⟩ else s

/-! ## Answering -/

/-- End a read: reply with a response and `8 * width` bits. -/
def State.answerRead (r : Response) (width : Nat) (v : BusValue) (s : State) : State :=
  s.reply (.read r width v)

/-- End a write: reply with a response. -/
def State.answerWrite (r : Response) (s : State) : State :=
  s.reply (.write r)

/-- Run an operation that exists in one `REG0_MODE` only (30_encoding.md R60, "exists when"; log 12). -/
def State.onlyInMode (s : State) (m : Reg0Mode) (result : State) : Host.Outcome State Fault Refusal :=
  if s.cfg.reg0Mode = m then .next result else .refused .operationAbsent

end Sys2Proof.Machine
end

