-- ==== Sys2Proof/Machine/Flags.lean ====
section
/-! DEFINITION. Machine/Flags.lean: the device's one flag, `startFlag` (10_state.md R17, R22). There are no condition
codes, and no arithmetic operation sets a flag. -/

namespace Sys2Proof.Machine

/-- `x[startFlag] <- true`: a DMA transfer has been issued (42_dma.md R101). -/
def State.setStartFlag (s : State) : State := { s with startFlag := true }

end Sys2Proof.Machine
end

