-- ==== Sys2Proof/Machine/Operands.lean ====
section
/-! DEFINITION. Machine/Operands.lean: the operand transformations of 30_encoding.md R59 and 41_popcount.md R95, and the
little-endian word assembly of 00_scope.md 5.1. -/

namespace Sys2Proof.Machine

/-- `LEN_MASK` (00_scope.md R6). -/
def lenMask : Word := 0x3FFFFFF

/-- The length write's mask (30_encoding.md R59 (a), 42_dma.md R101). -/
def maskLength (value : Word) : Word := value &&& lenMask

/-- The written value has a reserved bit set (30_encoding.md R62): the cause of `ReservedBitsSet`. -/
def hasReservedBits (value : Word) : Bool := value &&& ~~~lenMask != 0

/-- `wordCount = transferLength div 4` (42_dma.md R102). -/
def wordCount (transferLength : Word) : Nat := transferLength.toNat / 4

/-- The non-zero test of a reset write, at the width of its access (30_encoding.md R59 (c)). -/
def resetRequested : ResetData → Bool
  | .byte v => v != 0
  | .half v => v != 0
  | .word v => v != 0

/-- `bitCount[31:0]` (30_encoding.md R59 (d), 92_eei_decisions.md D9). -/
def lowWord (c : Count) : Word := c.setWidth 32

/-- `Cfg.BadRead(width)`, `8 * width` bits (30_encoding.md R59 (e)): the configured value, 0 where none is listed. -/
def badReadValue (c : Cfg) (width : Nat) : BusValue :=
  ((c.badRead.lookup width).getD 0) % 2 ^ (8 * width)

/-- `LE32(b0, b1, b2, b3)`: the byte at the lowest address is the least significant (20_memory.md R40). -/
def le32 (b0 b1 b2 b3 : Byte) : Word := b3 ++ b2 ++ b1 ++ b0

/-- `bytesLE32(w) = [w[7:0], w[15:8], w[23:16], w[31:24]]` (00_scope.md 5.1). -/
def bytesLE32 (w : Word) : List Byte :=
  [w.extractLsb' 0 8, w.extractLsb' 8 8, w.extractLsb' 16 8, w.extractLsb' 24 8]

/-- The words of a buffer, in ascending address order (42_dma.md R105): its consecutive groups of four bytes. -/
def wordsOf : List Byte → List Word
  | b0 :: b1 :: b2 :: b3 :: rest => le32 b0 b1 b2 b3 :: wordsOf rest
  | _ => []

/-- Word `i` of a buffer: `LE32` of its bytes `4i .. 4i + 3` (42_dma.md R105). -/
def wordAt (buf : List Byte) (i : Nat) : Word :=
  le32 (buf.getD (4 * i) 0) (buf.getD (4 * i + 1) 0) (buf.getD (4 * i + 2) 0) (buf.getD (4 * i + 3) 0)

end Sys2Proof.Machine
end

