-- ==== Sys2Proof/Machine/Popcount.lean ====
section
/-! DEFINITION. Machine/Popcount.lean: the Popcount Accumulator (41_popcount.md). -/

namespace Sys2Proof.Machine

/-- `popcount32(w)` (41_popcount.md R90): the number of bit positions 0 to 31 at which `w` has a 1. -/
def popcount32 (w : Word) : Nat := (List.range 32).countP (fun k => w.getLsbD k)

/-- The source's loop (41_popcount.md R91): clear the lowest set bit until the value is zero, counting iterations.
`fuel` bounds the iterations. -/
def kernighanLoop : Nat → Word → Nat → Nat
  | 0, _, c => c
  | fuel + 1, v, c => if v = 0 then c else kernighanLoop fuel (v &&& (v - 1)) (c + 1)

/-- The loop of 41_popcount.md R91, which runs at most 32 times. -/
def kernighan (w : Word) : Nat := kernighanLoop 32 w 0

/-- `Accumulate(w)` (41_popcount.md R92): `bitCount` grows by `popcount32(w)` modulo `2^64`, silently (R93). -/
def State.accumulate (w : Word) (s : State) : State :=
  s.setBitCount (s.bitCount + BitVec.ofNat 64 (popcount32 w))

end Sys2Proof.Machine
end

