-- ==== Sys2Proof/Machine/Dma.lean ====
section
/-! DEFINITION. Machine/Dma.lean: the DMA Transfer Engine and the operation `WR.LENGTH` (42_dma.md R100 to R108). -/

namespace Sys2Proof.Machine

/-- Step 1, latch (42_dma.md R101): store the masked length and set `startFlag`. -/
def State.latchLength (value : Word) (s : State) : State :=
  (s.setTransferLength (maskLength value)).setStartFlag

/-- Deliver one word to the sink the configuration fixes (42_dma.md R105): `Accumulate`, which cannot fail (R106), or a
write of the word to `RELAY_DEST` (R107). `none` is a failed relay write. -/
def State.sinkWord (w : Word) (s : State) : Option State :=
  match s.cfg.sinkMode with
  | .accumulate => some (s.accumulate w)
  | .relay => s.memWrite s.cfg.relayDest (bytesLE32 w)

/-- The transfer meets a memory failure (60_exceptions.md R130, R133): `MemoryAccessFailure` is raised, which logs
nothing, and gives the response. -/
def State.transferFailed (d : Direction) (addr width : Nat) (s : State) : State × Response :=
  (s.raise .memoryAccessFailure d addr width, ErrorKind.memoryAccessFailure.response .okay)

/-- Step 4, sinking (42_dma.md R105): the words in ascending order, each once, up to the first failed delivery; what was
delivered before stays (R107). -/
def sinkWords : List Word → State → State × Response
  | [], s => (s, .okay)
  | w :: ws, s =>
    match s.sinkWord w with
    | some s' => sinkWords ws s'
    | none => s.transferFailed .write s.cfg.relayDest 4

/-- Steps 2 to 5 (42_dma.md R102 to R108): one block request of the whole words, made before any word is sunk, so that
the words delivered are the block's as first read (20_memory.md R47). With no whole word, no memory access (R103). -/
def State.runTransfer (s : State) : State × Response :=
  let n := wordCount s.transferLength
  if n = 0 then (s, .okay)
  else
    match s.memRead s.sourceAddress.toNat (4 * n) with
    | none => s.transferFailed .read s.sourceAddress.toNat (4 * n)
    | some buf => sinkWords (wordsOf buf) s

/-- End a length write with the transfer's response. -/
def answerTransfer : State × Response → State
  | (s, r) => s.answerWrite r

/-- `ReservedBitsSet` (60_exceptions.md R134), raised by a length write whose bits 31:26 are not all zero; silent. -/
def State.noteReservedBits (value : Word) (s : State) : State :=
  if hasReservedBits value then s.raise .reservedBitsSet .write (s.cfg.deviceBase + offLength) 4 else s

/-- `WR.LENGTH` (42_dma.md R100). -/
def execWrLength (value : Word) (s : State) : Host.Outcome State Fault Refusal :=
  .next (answerTransfer (((s.noteReservedBits value).latchLength value).runTransfer))

end Sys2Proof.Machine
end

