-- ==== Sys2Proof/Machine/RegisterFile.lean ====
section
/-! DEFINITION. Machine/RegisterFile.lean: the operations the Register File performs on its own
(40_register_file.md R70 to R81). Every one ends with the response OKAY (R79). -/

namespace Sys2Proof.Machine

/-- The end of a 4-byte read of a register: the response OKAY and the value (40_register_file.md R79). -/
def State.answerWord (v : Word) (s : State) : State := s.answerRead .okay 4 (busOfWord v)

/-- `RD.CONTROL` (40_register_file.md R70). -/
def execRdControl (s : State) : Host.Outcome State Fault Refusal :=
  s.onlyInMode .control (s.answerWord s.controlReg)

/-- `WR.CONTROL` (40_register_file.md R71). -/
def execWrControl (value : Word) (s : State) : Host.Outcome State Fault Refusal :=
  s.onlyInMode .control ((s.setControlReg value).answerWrite .okay)

/-- `RD.BITCOUNT` (40_register_file.md R72). -/
def execRdBitcount (s : State) : Host.Outcome State Fault Refusal :=
  s.onlyInMode .dataIn (s.answerWord (lowWord s.bitCount))

/-- `WR.DATAIN` (40_register_file.md R73). -/
def execWrDatain (value : Word) (s : State) : Host.Outcome State Fault Refusal :=
  s.onlyInMode .dataIn (((s.setWriteScratch value).accumulate value).answerWrite .okay)

/-- The value a status read gives (40_register_file.md R74). -/
def State.statusValue (s : State) : Word :=
  match s.cfg.statusMode with
  | .idle => s.cfg.statusIdle
  | .stored => s.statusReg

/-- `RD.STATUS` (40_register_file.md R74). -/
def execRdStatus (s : State) : Host.Outcome State Fault Refusal :=
  .next (s.answerWord s.statusValue)

/-- `WR.STATUS` (40_register_file.md R75): stores in every configuration. -/
def execWrStatus (value : Word) (s : State) : Host.Outcome State Fault Refusal :=
  .next ((s.setStatusReg value).answerWrite .okay)

/-- `RD.SRCADDR` (40_register_file.md R76). -/
def execRdSrcaddr (s : State) : Host.Outcome State Fault Refusal :=
  .next (s.answerWord s.sourceAddress)

/-- `WR.SRCADDR` (40_register_file.md R77). -/
def execWrSrcaddr (value : Word) (s : State) : Host.Outcome State Fault Refusal :=
  .next ((s.setSourceAddress value).answerWrite .okay)

/-- `RD.LENGTH` (40_register_file.md R78). -/
def execRdLength (s : State) : Host.Outcome State Fault Refusal :=
  .next (s.answerWord s.transferLength)

/-- `RD.RESET` (40_register_file.md R80): `ResetMisuse` is raised and the value is 0 at every width. -/
def execRdReset (width : ResetWidth) (s : State) : Host.Outcome State Fault Refusal :=
  .next ((s.raise .resetMisuse .read (s.cfg.resetBase + offReset) width.bytes).answerRead
    (ErrorKind.resetMisuse.response .okay) width.bytes 0)

/-- The soft reset (40_register_file.md R81): `writeScratch` and `bitCount` only. -/
def State.softReset (s : State) : State := (s.setWriteScratch 0).setBitCount 0

/-- `WR.RESET` (40_register_file.md R81). -/
def execWrReset (data : ResetData) (s : State) : Host.Outcome State Fault Refusal :=
  .next ((if resetRequested data then s.softReset else s).answerWrite .okay)

end Sys2Proof.Machine
end

