-- ==== Sys2Proof/Machine/Reject.lean ====
section
/-! DEFINITION. Machine/Reject.lean: what the Bus Dispatcher answers by itself (43_bus_dispatcher.md R122, R123). -/

namespace Sys2Proof.Machine

/-- `RD.REJECT` (43_bus_dispatcher.md R122): one `OutOfRangeAccess`, the value `BadRead(width)`, the response REJECTED. -/
def execRdReject (addr width : Nat) (s : State) : Host.Outcome State Fault Refusal :=
  .next ((s.raise .outOfRangeAccess .read addr width).answerRead
    (ErrorKind.outOfRangeAccess.response .okay) width (badReadValue s.cfg width))

/-- `WR.REJECT` (43_bus_dispatcher.md R123): one `OutOfRangeAccess`, the response REJECTED, the value discarded. -/
def execWrReject (addr width : Nat) (_value : BusValue) (s : State) : Host.Outcome State Fault Refusal :=
  .next ((s.raise .outOfRangeAccess .write addr width).answerWrite (ErrorKind.outOfRangeAccess.response .okay))

end Sys2Proof.Machine
end

