-- ==== Sys2Proof/Machine/Dispatch.lean ====
section
/-! DEFINITION. Machine/Dispatch.lean: one arm for each operation of 30_encoding.md R60; the entry point each one calls
is that of 43_bus_dispatcher.md R120. -/

namespace Sys2Proof.Machine

def exec (i : Instr) (s : State) : Host.Outcome State Fault Refusal :=
  match i with
  | .rdControl => Sys2Proof.Machine.execRdControl s
  | .wrControl value => Sys2Proof.Machine.execWrControl value s
  | .rdBitcount => Sys2Proof.Machine.execRdBitcount s
  | .wrDatain value => Sys2Proof.Machine.execWrDatain value s
  | .rdStatus => Sys2Proof.Machine.execRdStatus s
  | .wrStatus value => Sys2Proof.Machine.execWrStatus value s
  | .rdSrcaddr => Sys2Proof.Machine.execRdSrcaddr s
  | .wrSrcaddr value => Sys2Proof.Machine.execWrSrcaddr value s
  | .rdLength => Sys2Proof.Machine.execRdLength s
  | .wrLength value => Sys2Proof.Machine.execWrLength value s
  | .rdReset width => Sys2Proof.Machine.execRdReset width s
  | .wrReset data => Sys2Proof.Machine.execWrReset data s
  | .rdReject addr width => Sys2Proof.Machine.execRdReject addr width s
  | .wrReject addr width value => Sys2Proof.Machine.execWrReject addr width value s

end Sys2Proof.Machine
end

