-- ==== Sys2Proof/WellFormed.lean ====
section
/-! DEFINITION. WellFormed.lean: when a configuration (00_scope.md R8), a transaction (30_encoding.md R50) and an
instruction (30_encoding.md R60) are well formed. -/

namespace Sys2Proof

/-- The constraints of 00_scope.md R8 and R7, and of the two spans: each holds its declared registers
(20_memory.md R32, R33) and is a multiple of 4 (30_encoding.md R54, DEDUCED, log 10). That no byte of a window is valid
memory needs no check here: `Cfg.isValid` leaves the windows out (20_memory.md R38). -/
abbrev Cfg.Wf (c : Cfg) : Prop :=
  c.deviceBase % 4 = 0 ∧ c.resetBase % 4 = 0 ∧ c.mainSpan ≤ c.resetOffset ∧
  c.deviceBase + c.mainSpan ≤ 2 ^ c.paWidth ∧ c.resetBase + c.resetSpan ≤ 2 ^ c.paWidth ∧ 33 ≤ c.paWidth ∧
  0x2C ≤ c.mainSpan ∧ c.mainSpan % 4 = 0 ∧ 4 ≤ c.resetSpan ∧ c.resetSpan % 4 = 0

/-- A transaction has the format of 30_encoding.md R50. -/
abbrev Transaction.Wf (c : Cfg) (t : Transaction) : Prop := c.formatError t = none

/-- An instruction is one the device of this configuration has, with operands its transaction can carry: the offset-0x00
operations exist in their own `REG0_MODE` only, and a REJECT operation stands for a transaction of the format of R50 that
fails one of the checks R52 to R55. -/
def Instr.Wf (c : Cfg) : Instr → Bool
  | .rdControl => c.reg0Mode == .control
  | .wrControl _ => c.reg0Mode == .control
  | .rdBitcount => c.reg0Mode == .dataIn
  | .wrDatain _ => c.reg0Mode == .dataIn
  | .rdStatus => true
  | .wrStatus _ => true
  | .rdSrcaddr => true
  | .wrSrcaddr _ => true
  | .rdLength => true
  | .wrLength _ => true
  | .rdReset _ => true
  | .wrReset _ => true
  | .rdReject a w => decide (c.formatError (.read a w) = none) && decide (c.acceptedRegister a w = none)
  | .wrReject a w v => decide (c.formatError (.write a w v) = none) && decide (c.acceptedRegister a w = none)

/-- When a pseudo-operation is valid (30_encoding.md R65). -/
def PseudoOp.Wf (c : Cfg) : PseudoOp → Bool
  | .popcnt _ => c.reg0Mode == .dataIn
  | .count => c.reg0Mode == .dataIn
  | .dma _ _ => true
  | .softReset => true

end Sys2Proof
end

