-- ==== Sys2Proof/Machine/HostMoves.lean ====
section
/-! DEFINITION. Machine/HostMoves.lean: what each move of the host does to the machine (92_eei_decisions.md D28, D24;
10_state.md R20; 70_reset_and_hazards.md R150 to R152). -/

namespace Sys2Proof.Machine

/-- Every field of the Device State at its creation value and the interrupt line deasserted (10_state.md R27). The
outputs, the memory, the configuration and the host's queue are not the device's to clear. -/
def State.zeroDevice (s : State) : State :=
  { s with controlReg := 0, statusReg := 0, sourceAddress := 0, transferLength := 0, writeScratch := 0, bitCount := 0,
           startFlag := false, interruptLine := false }

/-- One transaction reaches the device (43_bus_dispatcher.md R120): decode, then the operation. A detached device
answers none (92_eei_decisions.md D30), and an input outside the format of 30_encoding.md R50 is none (log 11). -/
def issueTransaction (t : Transaction) (s : State) : Host.Outcome State Fault Refusal :=
  if s.attached then
    match decode s.cfg t with
    | .ok i => exec i s
    | .error e => .refused (.malformedTransaction e)
  else .refused .detachedDevice

/-- The host changes one byte of system memory (10_state.md R26); it can change valid memory only (log 15). -/
def hostStore (addr : Nat) (byte : Byte) (s : State) : Host.Outcome State Fault Refusal :=
  if s.cfg.isValid addr then .next (s.setMemory (s.memory.writeByte addr byte)) else .refused .hostStoreOutsideMemory

/-- Detachment (70_reset_and_hazards.md R152): the Device State is destroyed (log 14). -/
def detachDevice (s : State) : Host.Outcome State Fault Refusal :=
  if s.attached then .next { s.zeroDevice with attached := false } else .refused .detachedDevice

/-- Creation (70_reset_and_hazards.md R150): a new device in the creation state with its configuration fixed; one that
breaks 00_scope.md R8 is refused. -/
def createDevice (c : Cfg) (s : State) : Host.Outcome State Fault Refusal :=
  if s.attached then .refused .deviceAlreadyAttached
  else if c.Wf then .next { s.zeroDevice with cfg := c, attached := true }
  else .refused .configurationRefused

/-- A hardware reset is identical to creation (92_eei_decisions.md D24) and changes neither `Cfg` nor memory
(70_reset_and_hazards.md R151). -/
def hardwareReset (s : State) : Host.Outcome State Fault Refusal :=
  if s.attached then .next s.zeroDevice else .refused .detachedDevice

/-- One move of the host. -/
def runMove (m : HostMove) (s : State) : Host.Outcome State Fault Refusal :=
  match m with
  | .issue t => issueTransaction t s
  | .store addr byte => hostStore addr byte s
  | .detach => detachDevice s
  | .create c => createDevice c s
  | .hardwareReset => hardwareReset s

/-- The oldest pending move, taken off the queue; with none pending the device stays in IDLE (42_dma.md R109; log 5). -/
def nextMove (s : State) : Host.Outcome State Fault Refusal :=
  match s.pending with
  | [] => .next s
  | m :: rest => runMove m (s.setPending rest)

end Sys2Proof.Machine
end

