-- ==== Sys2Proof/Machine/Step.lean ====
section
/-! DEFINITION. Machine/Step.lean: one step of the machine (20_memory.md R44: one step per transaction), and how a word
of opcode_table.json is placed where the next step takes it. -/

namespace Sys2Proof.Machine

/-- One step: the oldest pending move of the host runs to completion. -/
def step (s : State) : Host.Outcome State Fault Refusal := nextMove s

/-- The transaction of a table word stands at the head of the host's pending moves, so the next step runs it. -/
def State.withFetchWord (s : State) (nbits w : Nat) : State :=
  s.setPending (.issue (s.cfg.tableTransaction (w % 2 ^ nbits)) :: s.pending)

end Sys2Proof.Machine
end

