-- ==== Sys2Proof/Machine/Engine.lean ====
section
/-! DEFINITION. Machine/Engine.lean: the DMA engine as the state machine of 42_dma.md R109, one transition at a time. All
of it runs inside one `WR.LENGTH` (10_state.md R21), whose meaning is `execWrLength`; that the two agree is a statement
of Certificates/Slice0/Obligations.lean. -/

namespace Sys2Proof.Machine

/-- The states of 42_dma.md R109 with the working set of 10_state.md R21. -/
inductive EnginePhase where
  | idle
  | latch (value : Word)
  | fetch (wordCount : Nat)
  | sink (buf : List Byte) (wordCount i : Nat)
  | done (response : Response)
  deriving DecidableEq, Repr

/-- One transition of 42_dma.md R109. -/
def engineStep : EnginePhase × State → EnginePhase × State
  | (.idle, s) => (.idle, s)
  | (.latch value, s) =>
    let s' := s.latchLength value
    if wordCount s'.transferLength = 0 then (.done .okay, s') else (.fetch (wordCount s'.transferLength), s')
  | (.fetch n, s) =>
    match s.memRead s.sourceAddress.toNat (4 * n) with
    | none => (.done .dmaFailed, s)
    | some buf => (.sink buf n 0, s)
  | (.sink buf n i, s) =>
    match s.sinkWord (wordAt buf i) with
    | none => (.done .dmaFailed, s)
    | some s' => if i + 1 < n then (.sink buf n (i + 1), s') else (.done .okay, s')
  | (.done r, s) => (.idle, s.answerWrite r)

/-- `k` transitions. -/
def engineRun : Nat → EnginePhase × State → EnginePhase × State
  | 0, p => p
  | k + 1, p => engineRun k (engineStep p)

end Sys2Proof.Machine
end

