-- ==== Sys2Proof/Safety.lean ====
section
/-! DEFINITION. Safety.lean: what a safe state and a safe move are, and the terms the statements of
Certificates/Slice0/Obligations.lean are written in. -/

namespace Sys2Proof.Machine

/-- The next state of an outcome, if it has one. -/
def nextState? (o : Host.Outcome State Fault Refusal) : Option State :=
  match o with
  | .next s => some s
  | .fault _ => none
  | .refused _ => none

/-- The invariant of the machine: system memory is in its canonical form, the reserved length bits are zero
(10_state.md R18), the interrupt line is deasserted (R24), the configuration meets 00_scope.md R8, and a field the
configuration cannot reach still has its creation value (10_state.md R23). -/
abbrev Inv (s : State) : Prop :=
  s.memory.Wf ∧ s.transferLength.toNat < 2 ^ 26 ∧ s.interruptLine = false ∧ s.cfg.Wf ∧
  (s.cfg.reg0Mode = .dataIn → s.controlReg = 0) ∧ (s.cfg.reg0Mode = .control → s.writeScratch = 0)

/-- The host's move has a meaning in this state: it addresses a device that exists and is a transaction of
30_encoding.md R50, stores into valid memory, or creates a device with a configuration of 00_scope.md R8 where none
is. -/
abbrev State.Allows (s : State) : HostMove → Prop
  | .issue t => s.attached = true ∧ t.Wf s.cfg
  | .store a _ => s.cfg.isValid a = true
  | .detach => s.attached = true
  | .create c => s.attached = false ∧ c.Wf
  | .hardwareReset => s.attached = true

/-- A transaction that the decoder reads as the operation `i` and that forms the key `k` (30_encoding.md R56, R60). -/
abbrev DecodesTo (c : Cfg) (t : Transaction) (k : Key) (i : Instr) : Prop :=
  decode c t = .ok i ∧ c.formKey t = some k

/-- Word `i` of the source block as system memory holds it: `LE32` of the bytes at
`sourceAddress + 4i .. sourceAddress + 4i + 3` (42_dma.md R105). -/
def State.blockWord (s : State) (i : Nat) : Word :=
  le32 (s.memory.readByte (s.sourceAddress.toNat + 4 * i)) (s.memory.readByte (s.sourceAddress.toNat + 4 * i + 1))
    (s.memory.readByte (s.sourceAddress.toNat + 4 * i + 2)) (s.memory.readByte (s.sourceAddress.toNat + 4 * i + 3))

/-- The number of 1 bits in the first `n` words of the source block. -/
def State.blockBits (s : State) (n : Nat) : Nat := ((List.range n).map (fun i => popcount32 (s.blockWord i))).sum

/-- Every byte of the first `n` words of the source block is valid system memory (20_memory.md R36). -/
abbrev State.BlockReadable (s : State) (n : Nat) : Prop :=
  ∀ j, j < 4 * n → s.cfg.isValid (s.sourceAddress.toNat + j) = true

/-- The four bytes at `RELAY_DEST` are valid system memory (20_memory.md R39). -/
abbrev State.RelayWritable (s : State) : Prop := ∀ j, j < 4 → s.cfg.isValid (s.cfg.relayDest + j) = true

/-- The number of words a length write of `value` asks for (42_dma.md R101, R102): its low 26 bits divided by 4. -/
def wordsRequested (value : Word) : Nat := value.toNat % 2 ^ 26 / 4

/-- Two counts with the same low half, which is all a 32-bit read shows (92_eei_decisions.md D9). -/
abbrev sameLowHalf (a b : Count) : Prop := a.toNat % 2 ^ 32 = b.toNat % 2 ^ 32

/-- Two states a host cannot tell apart (10_state.md R23): they agree but for `writeScratch`, `startFlag`, the upper
half of `bitCount`, and by configuration `controlReg` (`DATA_IN`), all of `bitCount` (`CONTROL`), `statusReg`
(`IDLE`). -/
structure SameToHost (a b : State) : Prop where
  sourceAddress : a.sourceAddress = b.sourceAddress
  transferLength : a.transferLength = b.transferLength
  controlReg : a.cfg.reg0Mode = .control → a.controlReg = b.controlReg
  bitCount : a.cfg.reg0Mode = .dataIn → sameLowHalf a.bitCount b.bitCount
  statusReg : a.cfg.statusMode = .stored → a.statusReg = b.statusReg
  interruptLine : a.interruptLine = b.interruptLine
  log : a.log = b.log
  replies : a.replies = b.replies
  memory : a.memory = b.memory
  cfg : a.cfg = b.cfg
  attached : a.attached = b.attached
  pending : a.pending = b.pending

/-- The seven fields of Device State agree (10_state.md R10). -/
structure SameDevice (a b : State) : Prop where
  controlReg : a.controlReg = b.controlReg
  statusReg : a.statusReg = b.statusReg
  sourceAddress : a.sourceAddress = b.sourceAddress
  transferLength : a.transferLength = b.transferLength
  writeScratch : a.writeScratch = b.writeScratch
  bitCount : a.bitCount = b.bitCount
  startFlag : a.startFlag = b.startFlag

/-- The host queues a list of transactions. -/
def State.queue (s : State) (ts : List Transaction) : State := s.setPending (ts.map HostMove.issue)

def Reply.response : Reply → Response
  | .read r _ _ => r
  | .write r => r

end Sys2Proof.Machine
end

