-- ==== Sys2Proof/Certificates/Slice0/Obligations.lean ====
section
/-! DEFINITION. Certificates/Slice0/Obligations.lean: the statements for the provers, in the order of OBLIGATIONS.json.
A statement about an operation's result gives its whole next state, so it is the operation's completion and its frame as
well: every field it does not name is unchanged. -/

open Sys2Proof Sys2Proof.Machine

/-! ## Creation, reset, lifecycle -/

/-- 10_state.md R27: the creation values and what a non-zero `WR.RESET` leaves. -/
def Obligations.CreationAndSoftResetValues : Prop :=
  (∀ c : Cfg,
    (State.creation c).controlReg = 0 ∧ (State.creation c).statusReg = 0 ∧ (State.creation c).sourceAddress = 0 ∧
    (State.creation c).transferLength = 0 ∧ (State.creation c).writeScratch = 0 ∧ (State.creation c).bitCount = 0 ∧
    (State.creation c).startFlag = false ∧ (State.creation c).interruptLine = false ∧ (State.creation c).log = []) ∧
  State.reset = State.creation Cfg.hardware ∧
  (∀ (s : State) (d : ResetData), d.toBus ≠ 0 → ∃ t, exec (.wrReset d) s = .next t ∧
    t.controlReg = s.controlReg ∧ t.statusReg = s.statusReg ∧ t.sourceAddress = s.sourceAddress ∧
    t.transferLength = s.transferLength ∧ t.writeScratch = 0 ∧ t.bitCount = 0 ∧ t.startFlag = s.startFlag ∧
    t.interruptLine = s.interruptLine ∧ t.log = s.log)

/-- 70_reset_and_hazards.md R150, R151, 00_scope.md R8: creation zero-initialises the Device State, fixes the
configuration, touches no system memory, and refuses a configuration that breaks R8. That the outputs and the host's
queue stay is the model's choice (log 14). -/
def Obligations.CreateDeviceZeroesEveryRegister : Prop :=
  ∀ (s : State) (c : Cfg) (rest : List HostMove), s.attached = false → s.pending = .create c :: rest →
    (c.Wf → step s = .next { s with
      controlReg := 0, statusReg := 0, sourceAddress := 0, transferLength := 0, writeScratch := 0, bitCount := 0,
      startFlag := false, interruptLine := false, cfg := c, attached := true, pending := rest }) ∧
    (¬ c.Wf → step s = .refused .configurationRefused)

/-- 10_state.md R20, 70_reset_and_hazards.md R152: after detachment no transaction has a meaning, and a device created
again is in the creation state whatever the old one held. -/
def Obligations.DetachmentEndsTheDevice : Prop :=
  (∀ (s : State) (rest : List HostMove), s.attached = true → s.pending = .detach :: rest →
    ∃ t, step s = .next t ∧ t.attached = false ∧ t.pending = rest ∧ t.memory = s.memory ∧ t.cfg = s.cfg) ∧
  (∀ (s : State) (tx : Transaction) (rest : List HostMove), s.attached = false → s.pending = .issue tx :: rest →
    step s = .refused .detachedDevice) ∧
  (∀ (a b : State) (c : Cfg) (rest : List HostMove), a.attached = false → b.attached = false → c.Wf →
    a.pending = .create c :: rest → b.pending = .create c :: rest →
    ∃ a' b', step a = .next a' ∧ step b = .next b' ∧ SameDevice a' b')

/-- 92_eei_decisions.md D24: a hardware reset is identical to creation; 70_reset_and_hazards.md R151: it changes neither
`Cfg` nor system memory. -/
def Obligations.HardwareResetIsCreation : Prop :=
  ∀ (s : State) (rest : List HostMove), s.attached = true → s.pending = .hardwareReset :: rest →
    ∃ t, step s = .next t ∧ SameDevice t (State.creation s.cfg) ∧ t.interruptLine = false ∧ t.cfg = s.cfg ∧
      t.memory = s.memory ∧ t.attached = true ∧ t.pending = rest ∧ t.log = s.log ∧ t.replies = s.replies

/-- 92_eei_decisions.md D28, 10_state.md R26: the host changes one byte of valid system memory and nothing else. -/
def Obligations.HostStoreChangesOneByte : Prop :=
  ∀ (s : State) (a : Nat) (b : Byte) (rest : List HostMove), s.memory.Wf → s.pending = .store a b :: rest →
    s.cfg.isValid a = true →
    ∃ m, step s = .next { s with memory := m, pending := rest } ∧ m.Wf ∧ m.readByte a = b ∧
      ∀ a', a' ≠ a → m.readByte a' = s.memory.readByte a'

/-- The invariant holds right after reset. -/
def Obligations.ResetMeetsTheInvariant : Prop := Inv State.reset

/-- The invariant is kept by every step: the canonical form of memory, the reserved length bits (10_state.md R18), the
interrupt line (R24, 60_exceptions.md R142), the constraints of 00_scope.md R8, and the fields a configuration cannot
reach (10_state.md R23). -/
def Obligations.StepKeepsTheInvariant : Prop := ∀ s t : State, Inv s → step s = .next t → Inv t

/-! ## The step -/

/-- 43_bus_dispatcher.md R120, 20_memory.md R44: the oldest transaction is taken off the queue, decoded, and its
operation run to completion. -/
def Obligations.StepRunsTheDecodedOperation : Prop :=
  ∀ (s : State) (tx : Transaction) (rest : List HostMove) (i : Instr), s.attached = true →
    s.pending = .issue tx :: rest → decode s.cfg tx = .ok i → step s = exec i { s with pending := rest }

/-- 93_implementation_defined.md, end of Part 1: every transaction has a defined result. A step has a next state exactly
when the host's move has a meaning, and with no move pending the device stays in IDLE (log 5). -/
def Obligations.StepCompletesExactlyWhenAllowed : Prop :=
  (∀ s : State, s.pending = [] → step s = .next s) ∧
  ∀ (s : State) (m : HostMove) (rest : List HostMove), s.pending = m :: rest →
    ((∃ t, step s = .next t) ↔ s.Allows m)

/-- 20_memory.md R44, 92_eei_decisions.md D31: moves are taken one at a time in order, and only creation changes the
configuration. -/
def Obligations.StepTakesOneMoveInOrder : Prop :=
  ∀ s t : State, step s = .next t →
    t.pending = s.pending.tail ∧ (t.cfg ≠ s.cfg → ∃ c, s.pending.head? = some (.create c) ∧ t.cfg = c)

/-! ## Decode and encode -/

/-- Decoding the transaction of a well-formed operation gives the operation back, with every operand. -/
def Obligations.DecodeOfEncodeIsTheOperation : Prop :=
  ∀ (c : Cfg) (i : Instr), c.Wf → i.Wf c = true → decode c (encode c i) = .ok i

/-- 30_encoding.md R51: every transaction decodes, to exactly one well-formed operation, and no field of it is lost. -/
def Obligations.EveryTransactionDecodesAndEncodesBack : Prop :=
  ∀ (c : Cfg) (tx : Transaction), c.Wf → tx.Wf c →
    ∃ i, decode c tx = .ok i ∧ i.Wf c = true ∧ encode c i = tx

/-- 30_encoding.md R50: an input outside the format of R50 is no transaction, and the decoder says why. -/
def Obligations.MalformedInputsRejectedByName : Prop :=
  (∀ (c : Cfg) (a w : Nat), w < 1 ∨ 64 < w → decode c (.read a w) = .error .widthOutsideFormat ∧
    ∀ v, decode c (.write a w v) = .error .widthOutsideFormat) ∧
  (∀ (c : Cfg) (a w : Nat), 1 ≤ w → w ≤ 64 → 2 ^ c.paWidth ≤ a →
    decode c (.read a w) = .error .addressOutsideFormat ∧
    ∀ v, decode c (.write a w v) = .error .addressOutsideFormat) ∧
  (∀ (c : Cfg) (a w : Nat) (v : BusValue), 1 ≤ w → w ≤ 64 → a < 2 ^ c.paWidth → 2 ^ (8 * w) ≤ v →
    decode c (.write a w v) = .error .valueOutsideFormat)

/-- 30_encoding.md R56, R60: the decoder picks the operation that the match and mask rows pick, tried top to bottom, the
REJECT rows taking what forms no key. The key has eight offset bits, so the spans are at most 256. -/
def Obligations.DecodeFollowsTheOperationMap : Prop :=
  ∀ (c : Cfg) (tx : Transaction) (i : Instr), c.Wf → c.mainSpan ≤ 256 → c.resetSpan ≤ 256 →
    decode c tx = .ok i → i.op = c.tableOp tx

/-- 30_encoding.md R52 to R55, 20_memory.md R32 to R34: which accesses reach which register, and that every other access
is rejected. -/
def Obligations.AcceptedAccessesAreExactlyTheDeclared : Prop :=
  (∀ (c : Cfg) (a w : Nat) (r : Register), c.Wf →
    (c.acceptedRegister a w = some r ↔
      (w = 4 ∧ ((a = c.deviceBase + 0x00 ∧ r = .reg0) ∨ (a = c.deviceBase + 0x04 ∧ r = .status) ∨
        (a = c.deviceBase + 0x18 ∧ r = .srcaddr) ∨ (a = c.deviceBase + 0x28 ∧ r = .length))) ∨
      (a = c.deviceBase + c.resetOffset ∧ r = .reset ∧ (w = 1 ∨ w = 2 ∨ w = 4)))) ∧
  (∀ (c : Cfg) (a w : Nat), (Transaction.read a w).Wf c →
    (c.acceptedRegister a w = none ↔ decode c (.read a w) = .ok (.rdReject a w))) ∧
  (∀ (c : Cfg) (a w : Nat) (v : BusValue), (Transaction.write a w v).Wf c →
    (c.acceptedRegister a w = none ↔ decode c (.write a w v) = .ok (.wrReject a w v)))

/-- 20_memory.md R42: a misaligned register access is rejected, and alignment of the address equals alignment of the
offset at every width a window accepts. -/
def Obligations.MisalignedAccessesAreRejected : Prop :=
  (∀ (c : Cfg) (a w : Nat), c.Wf → a % w ≠ 0 → (Transaction.read a w).Wf c →
    decode c (.read a w) = .ok (.rdReject a w)) ∧
  (∀ (c : Cfg) (a w : Nat) (v : BusValue), c.Wf → a % w ≠ 0 → (Transaction.write a w v).Wf c →
    decode c (.write a w v) = .ok (.wrReject a w v)) ∧
  (∀ (c : Cfg) (a w off : Nat) (r : Window), c.Wf → c.selectWindow a = some (r, off) → r.AcceptsWidth w →
    (a % w = 0 ↔ off % w = 0))

/-- 30_encoding.md R65: every pseudo-operation, where it is valid, is its fixed expansion. -/
def Obligations.PseudoOperationsAreTheirExpansions : Prop :=
  ∀ c : Cfg, c.Wf →
    (∀ v, (PseudoOp.popcnt v).Wf c = true → ((PseudoOp.popcnt v).expand c).map (decode c) = [.ok (.wrDatain v)]) ∧
    (PseudoOp.count.Wf c = true → (PseudoOp.count.expand c).map (decode c) = [.ok .rdBitcount]) ∧
    (∀ src len, (PseudoOp.dma src len).Wf c = true →
      ((PseudoOp.dma src len).expand c).map (decode c) = [.ok (.wrSrcaddr src), .ok (.wrLength len)]) ∧
    (PseudoOp.softReset.Wf c = true → (PseudoOp.softReset.expand c).map (decode c) = [.ok (.wrReset (.word 1))]) ∧
    (c.reg0Mode = .control → (∀ v, (PseudoOp.popcnt v).Wf c = false) ∧ PseudoOp.count.Wf c = false)

/-- 30_encoding.md R60: words of opcode_table.json on the configuration of this hardware. The placement of the windows
and `REG0_MODE` are those of logs 1 and 6. -/
def Obligations.TableWordsDecode : Prop :=
  decodeTableWord 16 0x000 = some .rdBitcount ∧ decodeTableWord 16 0x200 = some (.wrDatain 0) ∧
  decodeTableWord 16 0x204 = some (.wrStatus 0) ∧ decodeTableWord 16 0x018 = some .rdSrcaddr ∧
  decodeTableWord 16 0x228 = some (.wrLength 0) ∧ decodeTableWord 16 0x100 = some (.rdReset .four) ∧
  decodeTableWord 16 0x300 = some (.wrReset (.word 0)) ∧ decodeTableWord 16 0x008 = some (.rdReject 0x008 4) ∧
  decodeTableWord 16 0x224 = some (.wrReject 0x024 4 0) ∧ decodeTableWord 16 0x400 = none

/-! ## The Register File -/

/-- 40_register_file.md section 2 (R70). That `exec` refuses the
operation in the other `REG0_MODE` is the model's choice (log 12, DEDUCED); the rule says it does not exist there. -/
def Obligations.ReadControlReturnsTheStoredValue : Prop :=
  (∀ s : State, s.cfg.reg0Mode = .control →
    exec .rdControl s =
      .next { s with replies := s.replies ++ [Reply.read .okay 4 s.controlReg.toNat] }) ∧
  (∀ s : State, s.cfg.reg0Mode ≠ .control →
    exec .rdControl s = .refused .operationAbsent ∧ ∀ tx, decode s.cfg tx ≠ .ok .rdControl) ∧
  (∀ c : Cfg, c.Wf → c.reg0Mode = .control → DecodesTo c (.read (c.deviceBase + 0x00) 4) 0x000 .rdControl) ∧
  (∀ c : Cfg, c.reg0Mode = .control →
    exec .rdControl (State.creation c) = .next { State.creation c with replies := [Reply.read .okay 4 0] }) ∧
  (∀ (s t : State) (v : Word), exec (.wrControl v) s = .next t → t.controlReg = v) ∧
  (∀ (s t : State) (i : Instr), (∀ v, i ≠ .wrControl v) → exec i s = .next t → t.controlReg = s.controlReg)

/-- 40_register_file.md section 2 (R71). That `exec` refuses the
operation in the other `REG0_MODE` is the model's choice (log 12, DEDUCED); the rule says it does not exist there. -/
def Obligations.WriteControlStoresAndNothingElse : Prop :=
  (∀ (s : State) (v : Word), s.cfg.reg0Mode = .control →
    exec (.wrControl v) s = .next { s with controlReg := v, replies := s.replies ++ [Reply.write .okay] }) ∧
  (∀ (s : State) (v : Word), s.cfg.reg0Mode ≠ .control →
    exec (.wrControl v) s = .refused .operationAbsent ∧ ∀ tx, decode s.cfg tx ≠ .ok (.wrControl v)) ∧
  (∀ (c : Cfg) (v : Word), c.Wf → c.reg0Mode = .control →
    DecodesTo c (.write (c.deviceBase + 0x00) 4 v.toNat) 0x200 (.wrControl v))

/-- 40_register_file.md section 3 (R72). That `exec` refuses the
operation in the other `REG0_MODE` is the model's choice (log 12, DEDUCED); the rule says it does not exist there. -/
def Obligations.ReadBitCountReturnsTheLowHalf : Prop :=
  (∀ s : State, s.cfg.reg0Mode = .dataIn →
    exec .rdBitcount s =
      .next { s with replies := s.replies ++ [Reply.read .okay 4 (s.bitCount.toNat % 2 ^ 32)] }) ∧
  (∀ s : State, s.cfg.reg0Mode ≠ .dataIn →
    exec .rdBitcount s = .refused .operationAbsent ∧ ∀ tx, decode s.cfg tx ≠ .ok .rdBitcount) ∧
  (∀ c : Cfg, c.Wf → c.reg0Mode = .dataIn → DecodesTo c (.read (c.deviceBase + 0x00) 4) 0x000 .rdBitcount) ∧
  (∀ c : Cfg, c.reg0Mode = .dataIn →
    exec .rdBitcount (State.creation c) = .next { State.creation c with replies := [Reply.read .okay 4 0] }) ∧
  (∀ (s t : State) (d : ResetData), s.cfg.reg0Mode = .dataIn → d.toBus ≠ 0 → exec (.wrReset d) s = .next t →
    exec .rdBitcount t = .next { t with replies := t.replies ++ [Reply.read .okay 4 0] })

/-- 40_register_file.md section 3 (R73): the sum is over the bit positions of the written word. That `exec` refuses the
operation in the other `REG0_MODE` is the model's choice (log 12, DEDUCED); the rule says it does not exist there. -/
def Obligations.WriteDataInCountsSetBits : Prop :=
  (∀ (s : State) (v : Word), s.cfg.reg0Mode = .dataIn →
    exec (.wrDatain v) s = .next { s with
      writeScratch := v
      bitCount := BitVec.ofNat 64 (s.bitCount.toNat + ((List.range 32).map (fun k => (v.getLsbD k).toNat)).sum)
      replies := s.replies ++ [Reply.write .okay] }) ∧
  (∀ (s : State) (v : Word), s.cfg.reg0Mode ≠ .dataIn →
    exec (.wrDatain v) s = .refused .operationAbsent ∧ ∀ tx, decode s.cfg tx ≠ .ok (.wrDatain v)) ∧
  (∀ (c : Cfg) (v : Word), c.Wf → c.reg0Mode = .dataIn →
    DecodesTo c (.write (c.deviceBase + 0x00) 4 v.toNat) 0x200 (.wrDatain v))

/-- 40_register_file.md R74. -/
def Obligations.ReadStatusByConfiguration : Prop :=
  (∀ s : State, s.cfg.statusMode = .idle →
    exec .rdStatus s =
      .next { s with replies := s.replies ++ [Reply.read .okay 4 s.cfg.statusIdle.toNat] }) ∧
  (∀ s : State, s.cfg.statusMode = .stored →
    exec .rdStatus s =
      .next { s with replies := s.replies ++ [Reply.read .okay 4 s.statusReg.toNat] }) ∧
  (∀ c : Cfg, c.Wf → DecodesTo c (.read (c.deviceBase + 0x04) 4) 0x004 .rdStatus) ∧
  (∀ (s t : State) (i : Instr), exec i s = .next t → t.cfg = s.cfg) ∧
  (∀ c : Cfg, (State.creation c).statusReg = 0) ∧
  (∀ (s t : State) (v : Word), exec (.wrStatus v) s = .next t → t.statusReg = v) ∧
  (∀ (s t : State) (i : Instr), (∀ v, i ≠ .wrStatus v) → exec i s = .next t → t.statusReg = s.statusReg)

/-- 40_register_file.md R75: stored in every configuration, and in `IDLE` mode hidden from the status read. -/
def Obligations.WriteStatusStoresInEveryConfiguration : Prop :=
  (∀ (s : State) (v : Word),
    exec (.wrStatus v) s = .next { s with statusReg := v, replies := s.replies ++ [Reply.write .okay] }) ∧
  (∀ (s t : State) (v : Word), s.cfg.statusMode = .idle → exec (.wrStatus v) s = .next t →
    exec .rdStatus t = .next { t with replies := t.replies ++ [Reply.read .okay 4 s.cfg.statusIdle.toNat] }) ∧
  (∀ (c : Cfg) (v : Word), c.Wf →
    DecodesTo c (.write (c.deviceBase + 0x04) 4 v.toNat) 0x204 (.wrStatus v))

/-- 40_register_file.md R76. -/
def Obligations.ReadSourceAddressReturnsIt : Prop :=
  (∀ s : State,
    exec .rdSrcaddr s =
      .next { s with replies := s.replies ++ [Reply.read .okay 4 s.sourceAddress.toNat] }) ∧
  (∀ c : Cfg, c.Wf → DecodesTo c (.read (c.deviceBase + 0x18) 4) 0x018 .rdSrcaddr) ∧
  (∀ (s t : State) (v : Word), exec (.wrSrcaddr v) s = .next t → t.sourceAddress = v) ∧
  (∀ (s t : State) (v : Word), exec (.wrLength v) s = .next t → t.sourceAddress = s.sourceAddress)

/-- 40_register_file.md R77: any value is accepted, whatever memory is valid; only a later length write of at least one
whole word fails on an unreachable block. -/
def Obligations.WriteSourceAddressStoresAnyValue : Prop :=
  (∀ (s : State) (v : Word),
    exec (.wrSrcaddr v) s = .next { s with sourceAddress := v, replies := s.replies ++ [Reply.write .okay] }) ∧
  (∀ (s t : State) (v len : Word), exec (.wrSrcaddr v) s = .next t →
    (∃ j, j < 4 * wordsRequested len ∧ s.cfg.isValid (v.toNat + j) = false) →
    ∃ u, exec (.wrLength len) t = .next u ∧ u.replies = t.replies ++ [Reply.write .dmaFailed]) ∧
  (∀ (s t : State) (v len : Word), exec (.wrSrcaddr v) s = .next t → wordsRequested len = 0 →
    ∃ u, exec (.wrLength len) t = .next u ∧ u.replies = t.replies ++ [Reply.write .okay]) ∧
  (∀ (c : Cfg) (v : Word), c.Wf →
    DecodesTo c (.write (c.deviceBase + 0x18) 4 v.toNat) 0x218 (.wrSrcaddr v))

/-- 40_register_file.md R78. -/
def Obligations.ReadLengthReturnsTheRequestedLength : Prop :=
  (∀ s : State,
    exec .rdLength s =
      .next { s with replies := s.replies ++ [Reply.read .okay 4 s.transferLength.toNat] }) ∧
  (∀ c : Cfg, c.Wf → DecodesTo c (.read (c.deviceBase + 0x28) 4) 0x028 .rdLength) ∧
  (∀ s : State, Inv s → s.transferLength.toNat < 2 ^ 26) ∧
  (∀ (s t : State) (v : Word), exec (.wrLength v) s = .next t →
    exec .rdLength t =
      .next { t with replies := t.replies ++ [Reply.read .okay 4 (v.toNat % 2 ^ 26)] })

/-- 40_register_file.md R80: the value is 0 whatever `BadRead` is. -/
def Obligations.ReadResetReturnsZeroAndLogs : Prop :=
  (∀ (s : State) (w : ResetWidth),
    exec (.rdReset w) s = .next { s with
      log := s.log ++ [⟨.resetMisuse, .read, s.cfg.deviceBase + s.cfg.resetOffset + 0x00, w.bytes⟩]
      replies := s.replies ++ [Reply.read .okay w.bytes 0] }) ∧
  (∀ c : Cfg, c.Wf →
    DecodesTo c (.read (c.deviceBase + c.resetOffset + 0x00) 1) 0x100 (.rdReset .one) ∧
    DecodesTo c (.read (c.deviceBase + c.resetOffset + 0x00) 2) 0x100 (.rdReset .two) ∧
    DecodesTo c (.read (c.deviceBase + c.resetOffset + 0x00) 4) 0x100 (.rdReset .four))

/-- 40_register_file.md R81: the value is compared with 0 at the width of its access, and no other operation lowers
`bitCount` (where the sum does not wrap, 41_popcount.md R93). -/
def Obligations.WriteResetClearsScratchAndCount : Prop :=
  (∀ (s : State) (d : ResetData), d.toBus ≠ 0 →
    exec (.wrReset d) s =
      .next { s with writeScratch := 0, bitCount := 0, replies := s.replies ++ [Reply.write .okay] }) ∧
  (∀ (s : State) (d : ResetData), d.toBus = 0 →
    exec (.wrReset d) s = .next { s with replies := s.replies ++ [Reply.write .okay] }) ∧
  (∀ c : Cfg, c.Wf →
    (∀ v : BitVec 8, DecodesTo c (.write (c.deviceBase + c.resetOffset + 0x00) 1 v.toNat) 0x300
      (.wrReset (.byte v))) ∧
    (∀ v : BitVec 16, DecodesTo c (.write (c.deviceBase + c.resetOffset + 0x00) 2 v.toNat) 0x300
      (.wrReset (.half v))) ∧
    (∀ v : BitVec 32, DecodesTo c (.write (c.deviceBase + c.resetOffset + 0x00) 4 v.toNat) 0x300
      (.wrReset (.word v)))) ∧
  (∀ (s t : State) (i : Instr), exec i s = .next t → s.bitCount.toNat + 536870880 < 2 ^ 64 →
    t.bitCount.toNat < s.bitCount.toNat → ∃ d, i = .wrReset d ∧ d.toBus ≠ 0)

/-- 40_register_file.md R79: what every operation of the Register File has in common. -/
def Obligations.RegisterFileContract : Prop :=
  ∀ (s t : State) (tx : Transaction) (i : Instr), decode s.cfg tx = .ok i →
    i.op ≠ .wrLength → i.op ≠ .rdReject → i.op ≠ .wrReject → exec i s = .next t →
    (∃ r, s.cfg.acceptedRegister tx.addr tx.width = some r) ∧
    (i.op ≠ .rdReset → i.op ≠ .wrReset → tx.width = 4) ∧
    (∃ r, t.replies = s.replies ++ [r] ∧ r.response = .okay) ∧
    (i.op ≠ .rdReset → t.log = s.log) ∧
    t.interruptLine = s.interruptLine ∧
    (∀ a, t.memory.readByte a = s.memory.readByte a)

/-! ## Rejected accesses -/

/-- 43_bus_dispatcher.md R122: every read that fails a check, whichever, gets the same answer; `BadRead(width)` has
`8 * width` bits and is 0 on this hardware. -/
def Obligations.RejectedReadReturnsBadRead : Prop :=
  (∀ (s : State) (a w : Nat),
    exec (.rdReject a w) s = .next { s with
      log := s.log ++ [⟨.outOfRangeAccess, .read, a, w⟩]
      replies := s.replies ++ [Reply.read .rejected w (badReadValue s.cfg w)] }) ∧
  (∀ (c : Cfg) (a w : Nat), (Transaction.read a w).Wf c → c.acceptedRegister a w = none →
    decode c (.read a w) = .ok (.rdReject a w)) ∧
  (∀ (c : Cfg) (w : Nat), badReadValue c w < 2 ^ (8 * w)) ∧
  (∀ w : Nat, badReadValue Cfg.hardware w = 0)

/-- 43_bus_dispatcher.md R123: a rejected write is discarded whole. -/
def Obligations.RejectedWriteIsDiscarded : Prop :=
  (∀ (s : State) (a w : Nat) (v : BusValue),
    exec (.wrReject a w v) s = .next { s with
      log := s.log ++ [⟨.outOfRangeAccess, .write, a, w⟩]
      replies := s.replies ++ [Reply.write .rejected] }) ∧
  (∀ (c : Cfg) (a w : Nat) (v : BusValue), (Transaction.write a w v).Wf c → c.acceptedRegister a w = none →
    decode c (.write a w v) = .ok (.wrReject a w v))

/-- 43_bus_dispatcher.md R124: every transaction ends with a response, and after any sequence of rejected transactions,
Device State, system memory and the interrupt line are what they were; only the diagnostic log (one event each) and the
replies have grown. The queue the run takes its transactions from is the model's (log 5), and so is the list of replies
(log 7). -/
def Obligations.RejectedSequencesChangeNothing : Prop :=
  (∀ (s : State) (tx : Transaction) (rest : List HostMove), s.attached = true → tx.Wf s.cfg →
    s.pending = .issue tx :: rest → ∃ t r, step s = .next t ∧ t.replies = s.replies ++ [r]) ∧
  ∀ (s : State) (txs : List Transaction), s.attached = true →
    (∀ tx ∈ txs, tx.Wf s.cfg ∧ s.cfg.acceptedRegister tx.addr tx.width = none) →
    ∃ es rs, Sys2Proof.core.run txs.length (s.queue txs) =
        .next { s with log := s.log ++ es, replies := s.replies ++ rs, pending := [] } ∧
      es = txs.map (fun tx => (⟨.outOfRangeAccess, tx.direction, tx.addr, tx.width⟩ : LogEvent)) ∧
      rs.length = txs.length ∧ ∀ r ∈ rs, Reply.response r = .rejected

/-! ## The length write and the DMA engine -/

/-- 42_dma.md R101: every length write completes with the masked value stored and `startFlag` set, whether the transfer
then completes or fails. -/
def Obligations.LengthWriteLatchesMaskedLength : Prop :=
  ∀ (s : State) (v : Word), ∃ t, exec (.wrLength v) s = .next t ∧ t.transferLength = v &&& 0x3FFFFFF ∧
    t.transferLength.toNat = v.toNat % 2 ^ 26 ∧ t.startFlag = true

/-- 42_dma.md R102: the word count is bits 25:2 of the stored length, and a length that is not a multiple of 4 does
exactly what the length rounded down does, but for the length stored. -/
def Obligations.OnlyWholeWordsAreTransferred : Prop :=
  (∀ v : Word, wordCount (v &&& 0x3FFFFFF) = ((v &&& 0x3FFFFFF).extractLsb' 2 24).toNat ∧
    wordCount (v &&& 0x3FFFFFF) = v.toNat % 2 ^ 26 / 4 ∧ wordCount (v &&& 0x3FFFFFF) ≤ 2 ^ 24 - 1) ∧
  ∀ (s t u : State) (v : Word), exec (.wrLength v) s = .next t → exec (.wrLength (v &&& 0xFFFFFFFC)) s = .next u →
    t = { u with transferLength := t.transferLength }

/-- 42_dma.md R103: masked lengths 0 to 3 make no memory access: the result mentions neither memory nor its validity. -/
def Obligations.ZeroWordTransferTouchesNoMemory : Prop :=
  ∀ (s : State) (v : Word), v.toNat % 2 ^ 26 < 4 →
    exec (.wrLength v) s = .next { s with
      transferLength := v &&& 0x3FFFFFF, startFlag := true, replies := s.replies ++ [Reply.write .okay] }

/-- 42_dma.md R104: one block request for the whole words; if any of its bytes is invalid, no word is delivered, and
the bytes after the last whole word do not matter. -/
def Obligations.BlockReadIsAllOrNothing : Prop :=
  (∀ (s : State) (v : Word), ¬ s.BlockReadable (wordsRequested v) →
    exec (.wrLength v) s = .next { s with
      transferLength := v &&& 0x3FFFFFF, startFlag := true, replies := s.replies ++ [Reply.write .dmaFailed] }) ∧
  (∀ (s : State) (v : Word), s.BlockReadable (wordsRequested v) →
    (s.cfg.sinkMode = .accumulate ∨ s.RelayWritable) →
    ∃ t, exec (.wrLength v) s = .next t ∧ t.replies = s.replies ++ [Reply.write .okay])

/-- 42_dma.md R106: the accumulate sink adds the bits of every word of the block to `bitCount`, modulo `2^64`, and
writes nothing else. -/
def Obligations.AccumulateTransferCountsTheBlock : Prop :=
  ∀ (s : State) (v : Word), s.cfg.sinkMode = .accumulate → s.BlockReadable (wordsRequested v) →
    exec (.wrLength v) s = .next { s with
      transferLength := v &&& 0x3FFFFFF, startFlag := true
      bitCount := BitVec.ofNat 64 (s.bitCount.toNat + s.blockBits (wordsRequested v))
      replies := s.replies ++ [Reply.write .okay] }

/-- 42_dma.md R107, 20_memory.md R47: the relay sink leaves the last word of the block, as it was when first read, in
the four bytes at `RELAY_DEST`, and every other byte alone; with `RELAY_DEST` not writable nothing is written. -/
def Obligations.RelayTransferLeavesTheLastWord : Prop :=
  (∀ (s : State) (v : Word), s.memory.Wf → s.cfg.sinkMode = .relay → 0 < wordsRequested v →
    s.BlockReadable (wordsRequested v) → s.RelayWritable →
    ∃ m, exec (.wrLength v) s = .next { s with
        transferLength := v &&& 0x3FFFFFF, startFlag := true, memory := m
        replies := s.replies ++ [Reply.write .okay] } ∧
      (∀ a, a < s.cfg.relayDest ∨ s.cfg.relayDest + 4 ≤ a → m.readByte a = s.memory.readByte a) ∧
      (∀ j, j < 4 → m.readByte (s.cfg.relayDest + j) =
        s.memory.readByte (s.sourceAddress.toNat + 4 * (wordsRequested v - 1) + j))) ∧
  (∀ (s : State) (v : Word), s.cfg.sinkMode = .relay → 0 < wordsRequested v → s.BlockReadable (wordsRequested v) →
    ¬ s.RelayWritable →
    exec (.wrLength v) s = .next { s with
      transferLength := v &&& 0x3FFFFFF, startFlag := true, replies := s.replies ++ [Reply.write .dmaFailed] })

/-- 42_dma.md R112: the state after a failed transfer is the state of step 1, in either sink mode; nothing is logged. -/
def Obligations.FailedTransferLeavesOnlyTheLatch : Prop :=
  ∀ (s t : State) (v : Word), exec (.wrLength v) s = .next t → t.replies = s.replies ++ [Reply.write .dmaFailed] →
    t = { s with
      transferLength := v &&& 0x3FFFFFF, startFlag := true, replies := s.replies ++ [Reply.write .dmaFailed] }

/-- The frame of `WR.LENGTH` (10_state.md R28, 42_dma.md R106 to R108): what it never changes, and every byte of system
memory outside the four at `RELAY_DEST`, or all of memory in accumulate mode. -/
def Obligations.LengthWriteFrame : Prop :=
  ∀ (s t : State) (v : Word), exec (.wrLength v) s = .next t →
    t.controlReg = s.controlReg ∧ t.statusReg = s.statusReg ∧ t.sourceAddress = s.sourceAddress ∧
    t.writeScratch = s.writeScratch ∧ t.interruptLine = s.interruptLine ∧ t.log = s.log ∧ t.cfg = s.cfg ∧
    t.attached = s.attached ∧ t.pending = s.pending ∧
    (s.cfg.sinkMode = .accumulate → ∀ a, t.memory.readByte a = s.memory.readByte a) ∧
    (s.cfg.sinkMode = .relay → t.bitCount = s.bitCount ∧
      ∀ a, a < s.cfg.relayDest ∨ s.cfg.relayDest + 4 ≤ a → t.memory.readByte a = s.memory.readByte a)

/-- 60_exceptions.md R134: a length write with reserved bits set behaves exactly as the masked value does. -/
def Obligations.ReservedLengthBitsAreIgnored : Prop :=
  ∀ (s : State) (v : Word), exec (.wrLength v) s = exec (.wrLength (v &&& 0x3FFFFFF)) s

/-- 42_dma.md R109: run from LATCH, the engine's state machine is back in IDLE after at most `wordCount + 3` transitions,
in the state the length write leaves. The bound counts the model's transitions. -/
def Obligations.EngineStateMachineRefinesTheLengthWrite : Prop :=
  ∀ (s t : State) (v : Word) (k : Nat), exec (.wrLength v) s = .next t → wordsRequested v + 3 ≤ k →
    engineRun k (.latch v, s) = (.idle, t)

/-! ## System memory -/

/-- 20_memory.md R36: a block read is all or nothing, and an address at or above `2^PA_WIDTH` is not valid. -/
def Obligations.MemReadIsAllOrNothing : Prop :=
  (∀ (s : State) (addr n : Nat), 1 ≤ n → (∀ j, j < n → s.cfg.isValid (addr + j) = true) →
    ∃ bs, s.memRead addr n = some bs ∧ bs.length = n ∧ ∀ j, j < n → bs[j]? = some (s.memory.readByte (addr + j))) ∧
  (∀ (s : State) (addr n : Nat), (∃ j, j < n ∧ s.cfg.isValid (addr + j) = false) → s.memRead addr n = none) ∧
  (∀ (c : Cfg) (a : Nat), 2 ^ c.paWidth ≤ a → c.isValid a = false)

/-- 20_memory.md R39: a block write is all or nothing, changes the block's bytes and nothing else. -/
def Obligations.MemWriteIsAllOrNothing : Prop :=
  (∀ (s : State) (addr : Nat) (v : List Byte), s.memory.Wf → (∀ j, j < v.length → s.cfg.isValid (addr + j) = true) →
    ∃ m, s.memWrite addr v = some { s with memory := m } ∧ m.Wf ∧
      (∀ j, j < v.length → v[j]? = some (m.readByte (addr + j))) ∧
      (∀ a, a < addr ∨ addr + v.length ≤ a → m.readByte a = s.memory.readByte a)) ∧
  (∀ (s : State) (addr : Nat) (v : List Byte), (∃ j, j < v.length ∧ s.cfg.isValid (addr + j) = false) →
    s.memWrite addr v = none)

/-- 20_memory.md R38: no byte of the device's own windows is valid, so a transfer whose source block, or whose relay
destination, touches them fails instead of re-entering the device. -/
def Obligations.OwnWindowsAreNotMemory : Prop :=
  (∀ (c : Cfg) (a : Nat), c.deviceBase ≤ a → a < c.deviceBase + c.mainSpan → c.isValid a = false) ∧
  (∀ (c : Cfg) (a : Nat), c.deviceBase + c.resetOffset ≤ a → a < c.deviceBase + c.resetOffset + c.resetSpan →
    c.isValid a = false) ∧
  (∀ (s : State) (v : Word) (j : Nat), j < 4 * wordsRequested v →
    s.cfg.inOwnWindow (s.sourceAddress.toNat + j) = true →
    exec (.wrLength v) s = .next { s with
      transferLength := v &&& 0x3FFFFFF, startFlag := true, replies := s.replies ++ [Reply.write .dmaFailed] }) ∧
  (∀ (s : State) (v : Word) (j : Nat), s.cfg.sinkMode = .relay → 0 < wordsRequested v → j < 4 →
    s.cfg.inOwnWindow (s.cfg.relayDest + j) = true →
    exec (.wrLength v) s = .next { s with
      transferLength := v &&& 0x3FFFFFF, startFlag := true, replies := s.replies ++ [Reply.write .dmaFailed] })

/-- 20_memory.md R40, 00_scope.md 5.1: words are little-endian, and `bytesLE32` is the inverse of `LE32`. -/
def Obligations.WordsAreLittleEndian : Prop :=
  (∀ b0 b1 b2 b3 : Byte,
    (le32 b0 b1 b2 b3).toNat = b0.toNat + 256 * b1.toNat + 65536 * b2.toNat + 16777216 * b3.toNat ∧
    bytesLE32 (le32 b0 b1 b2 b3) = [b0, b1, b2, b3]) ∧
  (∀ w : Word, ∃ b0 b1 b2 b3, bytesLE32 w = [b0, b1, b2, b3] ∧ le32 b0 b1 b2 b3 = w)

/-! ## The Popcount Accumulator -/

/-- 41_popcount.md R90, R91: `popcount32` is the number of 1 bits, from 0 to 32; the source's loop, given `k` iterations,
has counted `k` of them or all, so it runs exactly `popcount32(w)` times. -/
def Obligations.KernighanLoopIsPopcount : Prop :=
  (∀ w : Word, popcount32 w = ((List.range 32).map (fun j => (w.getLsbD j).toNat)).sum ∧ popcount32 w ≤ 32) ∧
  popcount32 0 = 0 ∧ popcount32 0xFFFFFFFF = 32 ∧
  (∀ (w : Word) (k : Nat), kernighanLoop k w 0 = min k (popcount32 w)) ∧
  (∀ w : Word, kernighan w = popcount32 w)

/-- 41_popcount.md R94: a sequence of data-in writes adds the sum of their counts, modulo `2^64` (R93), to whatever
`bitCount` was. R94's interleaving with transfers is not part of it. The queue is the model's (log 5). -/
def Obligations.DataInWritesAccumulate : Prop :=
  ∀ (s : State) (ws : List Word), s.attached = true → s.cfg.Wf → s.cfg.reg0Mode = .dataIn →
    ∃ t, Sys2Proof.core.run ws.length
        (s.queue (ws.map (fun w => .write (s.cfg.deviceBase + 0x00) 4 w.toNat))) = .next t ∧
      State.bitCount t = BitVec.ofNat 64 (s.bitCount.toNat + (ws.map popcount32).sum)

/-- 10_state.md R19: between resets `bitCount` never goes down while the sum stays below `2^64`; one operation adds at
most `32 * (2^24 - 1)`, one `WR.DATAIN` at most 32. -/
def Obligations.BitCountNeverDecreasesBetweenResets : Prop :=
  ∀ (s t : State) (i : Instr), exec i s = .next t → (∀ d, i = .wrReset d → d.toBus = 0) →
    s.bitCount.toNat + 536870880 < 2 ^ 64 →
    s.bitCount.toNat ≤ t.bitCount.toNat ∧ t.bitCount.toNat ≤ s.bitCount.toNat + 536870880 ∧
    (∀ v, i = .wrDatain v → t.bitCount.toNat ≤ s.bitCount.toNat + 32)

/-- 70_reset_and_hazards.md R153, R154, 20_memory.md R46: a soft reset, a transfer from any readable block and a read of
the count, one after the other, read exactly the number of 1 bits in the block's whole words; the count is below `2^32`,
so the 32-bit read loses nothing. The queue is the model's (log 5), and so is the list of replies (log 7). -/
def Obligations.MeasuringABlockReadsItsBitCount : Prop :=
  ∀ (s : State) (src len : Word), s.attached = true → s.cfg.Wf → s.cfg.reg0Mode = .dataIn →
    s.cfg.sinkMode = .accumulate → ({ s with sourceAddress := src } : State).BlockReadable (wordsRequested len) →
    ∃ t, Sys2Proof.core.run 4 (s.queue (PseudoOp.softReset.expand s.cfg ++ (PseudoOp.dma src len).expand s.cfg ++
        PseudoOp.count.expand s.cfg)) = .next t ∧
      State.replies t = s.replies ++ [.write .okay, .write .okay, .write .okay,
        .read .okay 4 (({ s with sourceAddress := src } : State).blockBits (wordsRequested len))] ∧
      State.memory t = s.memory ∧ State.log t = s.log

/-! ## Whole-machine rules -/

/-- 10_state.md R28: the access matrix, its writes: which operation, in which configuration, can change which field. -/
def Obligations.FieldsAreWrittenOnlyByTheirOperations : Prop :=
  ∀ (s t : State) (i : Instr), exec i s = .next t →
    (t.controlReg ≠ s.controlReg → i.op = .wrControl ∧ s.cfg.reg0Mode = .control) ∧
    (t.statusReg ≠ s.statusReg → i.op = .wrStatus) ∧
    (t.sourceAddress ≠ s.sourceAddress → i.op = .wrSrcaddr) ∧
    (t.transferLength ≠ s.transferLength → i.op = .wrLength) ∧
    (t.writeScratch ≠ s.writeScratch → (i.op = .wrDatain ∧ s.cfg.reg0Mode = .dataIn) ∨ i.op = .wrReset) ∧
    (t.bitCount ≠ s.bitCount → (i.op = .wrDatain ∧ s.cfg.reg0Mode = .dataIn) ∨ i.op = .wrReset ∨
      (i.op = .wrLength ∧ s.cfg.sinkMode = .accumulate)) ∧
    (t.startFlag ≠ s.startFlag → i.op = .wrLength ∧ t.startFlag = true) ∧
    (t.memory ≠ s.memory → i.op = .wrLength ∧ s.cfg.sinkMode = .relay) ∧
    t.interruptLine = s.interruptLine ∧ t.cfg = s.cfg ∧ t.attached = s.attached ∧ t.pending = s.pending

/-- 60_exceptions.md R131: one reply for each operation, of its own direction; REJECTED exactly for the REJECT
operations, DMA_FAILED for a length write only. -/
def Obligations.OneReplyForEachOperation : Prop :=
  ∀ (s t : State) (i : Instr), exec i s = .next t → ∃ r, t.replies = s.replies ++ [r] ∧
    (r.response = .rejected ↔ i.op = .rdReject ∨ i.op = .wrReject) ∧
    (r.response = .dmaFailed → i.op = .wrLength) ∧
    ((∃ q w v, r = .read q w v) ↔ (encode s.cfg i).direction = .read)

/-- 60_exceptions.md R137: exactly one event for each `RD.REJECT`, `WR.REJECT` and `RD.RESET`, and none otherwise. -/
def Obligations.LogEventsAreExactlyThese : Prop :=
  ∀ (s t : State) (i : Instr), exec i s = .next t →
    (∀ a w, i = .rdReject a w → t.log = s.log ++ [⟨.outOfRangeAccess, .read, a, w⟩]) ∧
    (∀ a w v, i = .wrReject a w v → t.log = s.log ++ [⟨.outOfRangeAccess, .write, a, w⟩]) ∧
    (∀ w, i = .rdReset w →
      t.log = s.log ++ [⟨.resetMisuse, .read, s.cfg.deviceBase + s.cfg.resetOffset + 0x00, w.bytes⟩]) ∧
    (i.op ≠ .rdReject → i.op ≠ .wrReject → i.op ≠ .rdReset → t.log = s.log)

/-- 10_state.md R25, 60_exceptions.md R131: no step's result depends on the log or on the replies given before. -/
def Obligations.OutputsAreNeverRead : Prop :=
  ∀ (s t : State) (l : List LogEvent) (rs : List Reply), step s = .next t →
    ∃ es ps, t.log = s.log ++ es ∧ t.replies = s.replies ++ ps ∧
      step { s with log := l, replies := rs } = .next { t with log := l ++ es, replies := rs ++ ps }

/-- 10_state.md R23: what no bus read returns never reaches the host: two states that agree but for the hidden state of
their configuration answer every move alike and still agree. -/
def Obligations.HiddenStateNeverReachesTheHost : Prop :=
  ∀ a b a' : State, SameToHost a b → step a = .next a' → ∃ b', step b = .next b' ∧ SameToHost a' b'

/-- 20_memory.md R45: a read never changes Device State or memory, and every operation but `WR.DATAIN` and `WR.LENGTH`
repeated at once leaves the Device State its first run left. -/
def Obligations.ReadsArePureAndRepeatableOperationsIdempotent : Prop :=
  (∀ (s t : State) (i : Instr), (encode s.cfg i).direction = .read → exec i s = .next t →
    SameDevice t s ∧ t.memory = s.memory) ∧
  (∀ (s t u : State) (i : Instr), i.op ≠ .wrDatain → i.op ≠ .wrLength → exec i s = .next t → exec i t = .next u →
    SameDevice u t ∧ u.memory = t.memory)
end

