-- ==== Sys2Proof/Laws/Decode.lean ====
section
/-! SUPPORT. Laws/Decode.lean: the bus values and the checks of decode, one lemma for each. -/

namespace Sys2Proof

/-! ### Values on the bus -/

@[simp] theorem wordOfBus_busOfWord (w : Word) : wordOfBus (busOfWord w) = w := by simp [wordOfBus, busOfWord]

/-- A value of 32 bits survives being read as a word and put on the bus again. -/
theorem busOfWord_wordOfBus {v : BusValue} (h : v < 2 ^ 32) : busOfWord (wordOfBus v) = v := by
  rw [busOfWord, wordOfBus, BitVec.toNat_ofNat, Nat.mod_eq_of_lt h]

theorem busOfWord_lt (w : Word) : busOfWord w < 2 ^ (8 * 4) := w.isLt

theorem resetData_toBus_lt (d : ResetData) : d.toBus < 2 ^ (8 * d.bytes) := by
  cases d <;> exact BitVec.isLt _

/-- The data of a reset write survives the bus. -/
theorem resetData_ofBus_toBus (d : ResetData) : ResetData.ofBus d.bytes d.toBus = d := by
  cases d <;> simp [ResetData.ofBus, ResetData.bytes, ResetData.toBus]

/-- A value of the width of its access survives being read as reset data and put on the bus again. -/
theorem resetData_toBus_ofBus {w : Nat} {v : BusValue} (hw : w = 1 ∨ w = 2 ∨ w = 4) (h : v < 2 ^ (8 * w)) :
    (ResetData.ofBus w v).toBus = v ∧ (ResetData.ofBus w v).bytes = w := by
  rcases hw with rfl | rfl | rfl <;> simp [ResetData.ofBus, ResetData.bytes, ResetData.toBus] <;> omega

/-! ### The checks R52 to R55 -/

/-- A window accepts exactly the widths of 20_memory.md R34. -/
theorem acceptsWidth_iff (r : Window) (w : Nat) :
    r.AcceptsWidth w ↔ (r = .main ∧ w = 4) ∨ (r = .reset ∧ (w = 1 ∨ w = 2 ∨ w = 4)) := by
  cases r <;> simp only [Window.AcceptsWidth, Window.minWidth, Window.maxWidth, List.mem_cons, List.not_mem_nil,
    reduceCtorEq, false_and, true_and, false_or, or_false] <;> omega

/-- An access at an offset inside the main window selects it (30_encoding.md R52). -/
theorem selectWindow_main {c : Cfg} {off : Nat} (h : off < c.mainSpan) :
    c.selectWindow (c.deviceBase + off) = some (.main, off) := by
  rw [Cfg.selectWindow, if_pos (by omega)]
  simp

/-- An access at an offset inside the reset window selects it: the windows are disjoint (30_encoding.md R52). -/
theorem selectWindow_reset {c : Cfg} (hc : c.Wf) {off : Nat} (h : off < c.resetSpan) :
    c.selectWindow (c.resetBase + off) = some (.reset, off) := by
  obtain ⟨_, _, h3, _⟩ := hc
  rw [Cfg.selectWindow, if_neg (by simp only [Cfg.resetBase]; omega), if_pos (by omega)]
  simp

/-- The window and offset an address selects are where it lies. -/
theorem selectWindow_eq_some {c : Cfg} {a off : Nat} {r : Window} (h : c.selectWindow a = some (r, off)) :
    a = c.windowBase r + off := by
  unfold Cfg.selectWindow at h
  split_ifs at h <;> simp only [Option.some.injEq, Prod.mk.injEq] at h <;> obtain ⟨rfl, rfl⟩ := h <;>
    simp only [Cfg.windowBase] <;> omega

theorem placeOf_eq_some {c : Cfg} {a w off : Nat} {r : Window} :
    c.placeOf a w = some (r, off) ↔
      c.selectWindow a = some (r, off) ∧ r.AcceptsWidth w ∧ off % w = 0 := by
  unfold Cfg.placeOf
  split
  · rename_i r' off' h'
    rw [h']
    constructor
    · intro h
      split_ifs at h with hh
      obtain ⟨rfl, rfl⟩ : r' = r ∧ off' = off := by simpa using h
      exact ⟨rfl, hh⟩
    · rintro ⟨h, hh⟩
      obtain ⟨rfl, rfl⟩ : r' = r ∧ off' = off := by simpa using h
      rw [if_pos hh]
  · rename_i h'
    simp [h']

/-- The registers of the main window (30_encoding.md R55). -/
theorem acceptedRegister_main {c : Cfg} {off : Nat} (ho : off < c.mainSpan) (h4 : off % 4 = 0) :
    c.acceptedRegister (c.deviceBase + off) 4 = Window.main.declaredRegister off := by
  rw [Cfg.acceptedRegister, placeOf_eq_some.2 ⟨selectWindow_main ho, by decide, h4⟩]

/-- The reset register at each width its window accepts (20_memory.md R33, R34). -/
theorem acceptedRegister_reset {c : Cfg} (hc : c.Wf) {w : Nat} (hw : w = 1 ∨ w = 2 ∨ w = 4) :
    c.acceptedRegister (c.resetBase + offReset) w = some .reset := by
  have hs : c.selectWindow (c.resetBase + offReset) = some (.reset, offReset) :=
    selectWindow_reset hc (by have := hc.2.2.2.2.2.2.2.2.1; simp only [offReset]; omega)
  rw [Cfg.acceptedRegister, placeOf_eq_some.2 ⟨hs, (acceptsWidth_iff _ _).2 (.inr ⟨rfl, hw⟩), by simp [offReset]⟩]
  rfl

/-- The only accepted accesses (20_memory.md R32 to R34). -/
theorem acceptedRegister_eq_some {c : Cfg} {a w : Nat} {r : Register} (h : c.acceptedRegister a w = some r) :
    (w = 4 ∧ ((a = c.deviceBase + offReg0 ∧ r = .reg0) ∨ (a = c.deviceBase + offStatus ∧ r = .status) ∨
        (a = c.deviceBase + offSrcaddr ∧ r = .srcaddr) ∨ (a = c.deviceBase + offLength ∧ r = .length))) ∨
      (a = c.resetBase + offReset ∧ r = .reset ∧ (w = 1 ∨ w = 2 ∨ w = 4)) := by
  unfold Cfg.acceptedRegister at h
  split at h
  · rename_i win off hp
    obtain ⟨hs, hw, -⟩ := placeOf_eq_some.1 hp
    have ha := selectWindow_eq_some hs
    rcases (acceptsWidth_iff _ _).1 hw with ⟨rfl, rfl⟩ | ⟨rfl, hw⟩
    · left
      simp only [Window.declaredRegister] at h
      by_cases h1 : off = offReg0 <;> by_cases h2 : off = offStatus <;> by_cases h3 : off = offSrcaddr <;>
        by_cases h4 : off = offLength <;> simp_all [Cfg.windowBase, offReg0, offStatus, offSrcaddr, offLength]
    · right
      simp only [Window.declaredRegister] at h
      by_cases h1 : off = offReset <;> simp_all [Cfg.windowBase]
  · cases h

/-- The key of a 4-byte access to the main window (30_encoding.md R56). -/
theorem formKey_main {c : Cfg} {off : Nat} (ho : off < c.mainSpan) (h4 : off % 4 = 0) {tx : Transaction}
    (ha : tx.addr = c.deviceBase + off) (hw : tx.width = 4) : c.formKey tx = some (keyOf tx.direction .main off) := by
  rw [Cfg.formKey, ha, hw, placeOf_eq_some.2 ⟨selectWindow_main ho, by decide, h4⟩]

/-- The key of an access to the reset register (30_encoding.md R56). -/
theorem formKey_reset {c : Cfg} (hc : c.Wf) {tx : Transaction} (ha : tx.addr = c.resetBase + offReset)
    (hw : tx.width = 1 ∨ tx.width = 2 ∨ tx.width = 4) : c.formKey tx = some (keyOf tx.direction .reset offReset) := by
  have hs : c.selectWindow (c.resetBase + offReset) = some (.reset, offReset) :=
    selectWindow_reset hc (by have := hc.2.2.2.2.2.2.2.2.1; simp only [offReset]; omega)
  rw [Cfg.formKey, ha, placeOf_eq_some.2 ⟨hs, (acceptsWidth_iff _ _).2 (.inr ⟨rfl, hw⟩), by simp [offReset]⟩]

/-- What decoding a transaction of the format of R50 gives. -/
theorem decode_read {c : Cfg} {a w : Nat} (h : (Transaction.read a w).Wf c) :
    decode c (.read a w) = .ok (c.dispatchRead a w) := by
  rw [decode, h]

theorem decode_write {c : Cfg} {a w : Nat} {v : BusValue} (h : (Transaction.write a w v).Wf c) :
    decode c (.write a w v) = .ok (c.dispatchWrite a w v) := by
  rw [decode, h]

end Sys2Proof
end

