-- ==== Sys2Proof/Laws/Operands.lean ====
section
/-! SUPPORT. Laws/Operands.lean: the operand transformations and the word assembly as arithmetic. -/

namespace Sys2Proof.Machine

/-- The length mask keeps the low 26 bits (42_dma.md R101). -/
theorem maskLength_toNat (v : Word) : (maskLength v).toNat = v.toNat % 2 ^ 26 := by
  have h : lenMask.toNat = 2 ^ 26 - 1 := rfl
  rw [maskLength, BitVec.toNat_and, h, Nat.and_two_pow_sub_one_eq_mod]

theorem maskLength_idem (v : Word) : maskLength (maskLength v) = maskLength v := by
  apply BitVec.eq_of_toNat_eq
  simp [maskLength_toNat]

theorem wordCount_maskLength (v : Word) : wordCount (maskLength v) = wordsRequested v := by
  rw [wordCount, maskLength_toNat, wordsRequested]

@[simp] theorem bytesLE32_length (w : Word) : (bytesLE32 w).length = 4 := rfl

theorem le32_toNat (b0 b1 b2 b3 : Byte) :
    (le32 b0 b1 b2 b3).toNat = b0.toNat + 256 * b1.toNat + 65536 * b2.toNat + 16777216 * b3.toNat := by
  have h0 := b0.isLt; have h1 := b1.isLt; have h2 := b2.isLt; have h3 := b3.isLt
  simp only [le32, BitVec.toNat_append]
  rw [← Nat.shiftLeft_add_eq_or_of_lt h2, ← Nat.shiftLeft_add_eq_or_of_lt h1, ← Nat.shiftLeft_add_eq_or_of_lt h0]
  simp only [Nat.shiftLeft_eq]
  omega

/-- Writing a word back gives the bytes it was assembled from (20_memory.md R40). -/
theorem bytesLE32_le32 (b0 b1 b2 b3 : Byte) : bytesLE32 (le32 b0 b1 b2 b3) = [b0, b1, b2, b3] := by
  have h0 := b0.isLt; have h1 := b1.isLt; have h2 := b2.isLt; have h3 := b3.isLt
  simp only [bytesLE32, List.cons.injEq, and_true]
  refine ⟨?_, ?_, ?_, ?_⟩ <;> apply BitVec.eq_of_toNat_eq <;>
    simp only [BitVec.extractLsb'_toNat, le32_toNat, Nat.shiftRight_eq_div_pow] <;> omega

theorem wordsOf_nil : wordsOf [] = [] := rfl

/-- Word by word, the buffer read from memory is the source block (42_dma.md R105). -/
theorem wordsOf_range (f : Nat → Byte) (n : Nat) :
    wordsOf ((List.range (4 * n)).map f) =
      (List.range n).map (fun i => le32 (f (4 * i)) (f (4 * i + 1)) (f (4 * i + 2)) (f (4 * i + 3))) := by
  induction n generalizing f with
  | zero => rfl
  | succ n ih =>
    have h4 : 4 * (n + 1) = 4 * n + 1 + 1 + 1 + 1 := by omega
    rw [h4, List.range_succ_eq_map, List.range_succ_eq_map, List.range_succ_eq_map, List.range_succ_eq_map,
      List.range_succ_eq_map]
    simp only [List.map_cons, List.map_map, wordsOf]
    congr 1
    have := ih (f ∘ Nat.succ ∘ Nat.succ ∘ Nat.succ ∘ Nat.succ)
    simp only [Function.comp_def] at this ⊢
    rw [this]
    refine List.map_congr_left fun i _ => ?_
    congr 2

theorem wordAt_range (f : Nat → Byte) {n i : Nat} (h : i < n) :
    wordAt ((List.range (4 * n)).map f) i = le32 (f (4 * i)) (f (4 * i + 1)) (f (4 * i + 2)) (f (4 * i + 3)) := by
  have hk : ∀ k, k < 4 * n → ((List.range (4 * n)).map f).getD k 0 = f k := by
    intro k hk
    simp [List.getD, List.getElem?_range hk]
  rw [wordAt, hk _ (by omega), hk _ (by omega), hk _ (by omega), hk _ (by omega)]

/-- `popcount32` lies in 0 to 32 (41_popcount.md R90). -/
theorem popcount32_le (w : Word) : popcount32 w ≤ 32 := by
  have := List.countP_le_length (p := fun k => w.getLsbD k) (l := List.range 32)
  simpa [popcount32] using this

theorem popcount32_zero : popcount32 0 = 0 := by decide

end Sys2Proof.Machine
end

