-- ==== Sys2Proof/Laws/State.lean ====
section
/-! SUPPORT. Laws/State.lean: what each setter leaves in each field of State, one lemma per field per setter. -/

namespace Sys2Proof.Machine

/-! ### `State.setControlReg` -/

@[simp] theorem setControlReg_controlReg (v : Word) (s : State) : (s.setControlReg v).controlReg = v := rfl
@[simp] theorem setControlReg_statusReg (v : Word) (s : State) : (s.setControlReg v).statusReg = s.statusReg := rfl
@[simp] theorem setControlReg_sourceAddress (v : Word) (s : State) : (s.setControlReg v).sourceAddress = s.sourceAddress := rfl
@[simp] theorem setControlReg_transferLength (v : Word) (s : State) : (s.setControlReg v).transferLength = s.transferLength := rfl
@[simp] theorem setControlReg_writeScratch (v : Word) (s : State) : (s.setControlReg v).writeScratch = s.writeScratch := rfl
@[simp] theorem setControlReg_bitCount (v : Word) (s : State) : (s.setControlReg v).bitCount = s.bitCount := rfl
@[simp] theorem setControlReg_startFlag (v : Word) (s : State) : (s.setControlReg v).startFlag = s.startFlag := rfl
@[simp] theorem setControlReg_interruptLine (v : Word) (s : State) : (s.setControlReg v).interruptLine = s.interruptLine := rfl
@[simp] theorem setControlReg_log (v : Word) (s : State) : (s.setControlReg v).log = s.log := rfl
@[simp] theorem setControlReg_replies (v : Word) (s : State) : (s.setControlReg v).replies = s.replies := rfl
@[simp] theorem setControlReg_memory (v : Word) (s : State) : (s.setControlReg v).memory = s.memory := rfl
@[simp] theorem setControlReg_cfg (v : Word) (s : State) : (s.setControlReg v).cfg = s.cfg := rfl
@[simp] theorem setControlReg_attached (v : Word) (s : State) : (s.setControlReg v).attached = s.attached := rfl
@[simp] theorem setControlReg_pending (v : Word) (s : State) : (s.setControlReg v).pending = s.pending := rfl

/-! ### `State.setStatusReg` -/

@[simp] theorem setStatusReg_controlReg (v : Word) (s : State) : (s.setStatusReg v).controlReg = s.controlReg := rfl
@[simp] theorem setStatusReg_statusReg (v : Word) (s : State) : (s.setStatusReg v).statusReg = v := rfl
@[simp] theorem setStatusReg_sourceAddress (v : Word) (s : State) : (s.setStatusReg v).sourceAddress = s.sourceAddress := rfl
@[simp] theorem setStatusReg_transferLength (v : Word) (s : State) : (s.setStatusReg v).transferLength = s.transferLength := rfl
@[simp] theorem setStatusReg_writeScratch (v : Word) (s : State) : (s.setStatusReg v).writeScratch = s.writeScratch := rfl
@[simp] theorem setStatusReg_bitCount (v : Word) (s : State) : (s.setStatusReg v).bitCount = s.bitCount := rfl
@[simp] theorem setStatusReg_startFlag (v : Word) (s : State) : (s.setStatusReg v).startFlag = s.startFlag := rfl
@[simp] theorem setStatusReg_interruptLine (v : Word) (s : State) : (s.setStatusReg v).interruptLine = s.interruptLine := rfl
@[simp] theorem setStatusReg_log (v : Word) (s : State) : (s.setStatusReg v).log = s.log := rfl
@[simp] theorem setStatusReg_replies (v : Word) (s : State) : (s.setStatusReg v).replies = s.replies := rfl
@[simp] theorem setStatusReg_memory (v : Word) (s : State) : (s.setStatusReg v).memory = s.memory := rfl
@[simp] theorem setStatusReg_cfg (v : Word) (s : State) : (s.setStatusReg v).cfg = s.cfg := rfl
@[simp] theorem setStatusReg_attached (v : Word) (s : State) : (s.setStatusReg v).attached = s.attached := rfl
@[simp] theorem setStatusReg_pending (v : Word) (s : State) : (s.setStatusReg v).pending = s.pending := rfl

/-! ### `State.setSourceAddress` -/

@[simp] theorem setSourceAddress_controlReg (v : Word) (s : State) : (s.setSourceAddress v).controlReg = s.controlReg := rfl
@[simp] theorem setSourceAddress_statusReg (v : Word) (s : State) : (s.setSourceAddress v).statusReg = s.statusReg := rfl
@[simp] theorem setSourceAddress_sourceAddress (v : Word) (s : State) : (s.setSourceAddress v).sourceAddress = v := rfl
@[simp] theorem setSourceAddress_transferLength (v : Word) (s : State) : (s.setSourceAddress v).transferLength = s.transferLength := rfl
@[simp] theorem setSourceAddress_writeScratch (v : Word) (s : State) : (s.setSourceAddress v).writeScratch = s.writeScratch := rfl
@[simp] theorem setSourceAddress_bitCount (v : Word) (s : State) : (s.setSourceAddress v).bitCount = s.bitCount := rfl
@[simp] theorem setSourceAddress_startFlag (v : Word) (s : State) : (s.setSourceAddress v).startFlag = s.startFlag := rfl
@[simp] theorem setSourceAddress_interruptLine (v : Word) (s : State) : (s.setSourceAddress v).interruptLine = s.interruptLine := rfl
@[simp] theorem setSourceAddress_log (v : Word) (s : State) : (s.setSourceAddress v).log = s.log := rfl
@[simp] theorem setSourceAddress_replies (v : Word) (s : State) : (s.setSourceAddress v).replies = s.replies := rfl
@[simp] theorem setSourceAddress_memory (v : Word) (s : State) : (s.setSourceAddress v).memory = s.memory := rfl
@[simp] theorem setSourceAddress_cfg (v : Word) (s : State) : (s.setSourceAddress v).cfg = s.cfg := rfl
@[simp] theorem setSourceAddress_attached (v : Word) (s : State) : (s.setSourceAddress v).attached = s.attached := rfl
@[simp] theorem setSourceAddress_pending (v : Word) (s : State) : (s.setSourceAddress v).pending = s.pending := rfl

/-! ### `State.setTransferLength` -/

@[simp] theorem setTransferLength_controlReg (v : Word) (s : State) : (s.setTransferLength v).controlReg = s.controlReg := rfl
@[simp] theorem setTransferLength_statusReg (v : Word) (s : State) : (s.setTransferLength v).statusReg = s.statusReg := rfl
@[simp] theorem setTransferLength_sourceAddress (v : Word) (s : State) : (s.setTransferLength v).sourceAddress = s.sourceAddress := rfl
@[simp] theorem setTransferLength_transferLength (v : Word) (s : State) : (s.setTransferLength v).transferLength = v := rfl
@[simp] theorem setTransferLength_writeScratch (v : Word) (s : State) : (s.setTransferLength v).writeScratch = s.writeScratch := rfl
@[simp] theorem setTransferLength_bitCount (v : Word) (s : State) : (s.setTransferLength v).bitCount = s.bitCount := rfl
@[simp] theorem setTransferLength_startFlag (v : Word) (s : State) : (s.setTransferLength v).startFlag = s.startFlag := rfl
@[simp] theorem setTransferLength_interruptLine (v : Word) (s : State) : (s.setTransferLength v).interruptLine = s.interruptLine := rfl
@[simp] theorem setTransferLength_log (v : Word) (s : State) : (s.setTransferLength v).log = s.log := rfl
@[simp] theorem setTransferLength_replies (v : Word) (s : State) : (s.setTransferLength v).replies = s.replies := rfl
@[simp] theorem setTransferLength_memory (v : Word) (s : State) : (s.setTransferLength v).memory = s.memory := rfl
@[simp] theorem setTransferLength_cfg (v : Word) (s : State) : (s.setTransferLength v).cfg = s.cfg := rfl
@[simp] theorem setTransferLength_attached (v : Word) (s : State) : (s.setTransferLength v).attached = s.attached := rfl
@[simp] theorem setTransferLength_pending (v : Word) (s : State) : (s.setTransferLength v).pending = s.pending := rfl

/-! ### `State.setWriteScratch` -/

@[simp] theorem setWriteScratch_controlReg (v : Word) (s : State) : (s.setWriteScratch v).controlReg = s.controlReg := rfl
@[simp] theorem setWriteScratch_statusReg (v : Word) (s : State) : (s.setWriteScratch v).statusReg = s.statusReg := rfl
@[simp] theorem setWriteScratch_sourceAddress (v : Word) (s : State) : (s.setWriteScratch v).sourceAddress = s.sourceAddress := rfl
@[simp] theorem setWriteScratch_transferLength (v : Word) (s : State) : (s.setWriteScratch v).transferLength = s.transferLength := rfl
@[simp] theorem setWriteScratch_writeScratch (v : Word) (s : State) : (s.setWriteScratch v).writeScratch = v := rfl
@[simp] theorem setWriteScratch_bitCount (v : Word) (s : State) : (s.setWriteScratch v).bitCount = s.bitCount := rfl
@[simp] theorem setWriteScratch_startFlag (v : Word) (s : State) : (s.setWriteScratch v).startFlag = s.startFlag := rfl
@[simp] theorem setWriteScratch_interruptLine (v : Word) (s : State) : (s.setWriteScratch v).interruptLine = s.interruptLine := rfl
@[simp] theorem setWriteScratch_log (v : Word) (s : State) : (s.setWriteScratch v).log = s.log := rfl
@[simp] theorem setWriteScratch_replies (v : Word) (s : State) : (s.setWriteScratch v).replies = s.replies := rfl
@[simp] theorem setWriteScratch_memory (v : Word) (s : State) : (s.setWriteScratch v).memory = s.memory := rfl
@[simp] theorem setWriteScratch_cfg (v : Word) (s : State) : (s.setWriteScratch v).cfg = s.cfg := rfl
@[simp] theorem setWriteScratch_attached (v : Word) (s : State) : (s.setWriteScratch v).attached = s.attached := rfl
@[simp] theorem setWriteScratch_pending (v : Word) (s : State) : (s.setWriteScratch v).pending = s.pending := rfl

/-! ### `State.setBitCount` -/

@[simp] theorem setBitCount_controlReg (v : Count) (s : State) : (s.setBitCount v).controlReg = s.controlReg := rfl
@[simp] theorem setBitCount_statusReg (v : Count) (s : State) : (s.setBitCount v).statusReg = s.statusReg := rfl
@[simp] theorem setBitCount_sourceAddress (v : Count) (s : State) : (s.setBitCount v).sourceAddress = s.sourceAddress := rfl
@[simp] theorem setBitCount_transferLength (v : Count) (s : State) : (s.setBitCount v).transferLength = s.transferLength := rfl
@[simp] theorem setBitCount_writeScratch (v : Count) (s : State) : (s.setBitCount v).writeScratch = s.writeScratch := rfl
@[simp] theorem setBitCount_bitCount (v : Count) (s : State) : (s.setBitCount v).bitCount = v := rfl
@[simp] theorem setBitCount_startFlag (v : Count) (s : State) : (s.setBitCount v).startFlag = s.startFlag := rfl
@[simp] theorem setBitCount_interruptLine (v : Count) (s : State) : (s.setBitCount v).interruptLine = s.interruptLine := rfl
@[simp] theorem setBitCount_log (v : Count) (s : State) : (s.setBitCount v).log = s.log := rfl
@[simp] theorem setBitCount_replies (v : Count) (s : State) : (s.setBitCount v).replies = s.replies := rfl
@[simp] theorem setBitCount_memory (v : Count) (s : State) : (s.setBitCount v).memory = s.memory := rfl
@[simp] theorem setBitCount_cfg (v : Count) (s : State) : (s.setBitCount v).cfg = s.cfg := rfl
@[simp] theorem setBitCount_attached (v : Count) (s : State) : (s.setBitCount v).attached = s.attached := rfl
@[simp] theorem setBitCount_pending (v : Count) (s : State) : (s.setBitCount v).pending = s.pending := rfl

/-! ### `State.setMemory` -/

@[simp] theorem setMemory_controlReg (v : Memory) (s : State) : (s.setMemory v).controlReg = s.controlReg := rfl
@[simp] theorem setMemory_statusReg (v : Memory) (s : State) : (s.setMemory v).statusReg = s.statusReg := rfl
@[simp] theorem setMemory_sourceAddress (v : Memory) (s : State) : (s.setMemory v).sourceAddress = s.sourceAddress := rfl
@[simp] theorem setMemory_transferLength (v : Memory) (s : State) : (s.setMemory v).transferLength = s.transferLength := rfl
@[simp] theorem setMemory_writeScratch (v : Memory) (s : State) : (s.setMemory v).writeScratch = s.writeScratch := rfl
@[simp] theorem setMemory_bitCount (v : Memory) (s : State) : (s.setMemory v).bitCount = s.bitCount := rfl
@[simp] theorem setMemory_startFlag (v : Memory) (s : State) : (s.setMemory v).startFlag = s.startFlag := rfl
@[simp] theorem setMemory_interruptLine (v : Memory) (s : State) : (s.setMemory v).interruptLine = s.interruptLine := rfl
@[simp] theorem setMemory_log (v : Memory) (s : State) : (s.setMemory v).log = s.log := rfl
@[simp] theorem setMemory_replies (v : Memory) (s : State) : (s.setMemory v).replies = s.replies := rfl
@[simp] theorem setMemory_memory (v : Memory) (s : State) : (s.setMemory v).memory = v := rfl
@[simp] theorem setMemory_cfg (v : Memory) (s : State) : (s.setMemory v).cfg = s.cfg := rfl
@[simp] theorem setMemory_attached (v : Memory) (s : State) : (s.setMemory v).attached = s.attached := rfl
@[simp] theorem setMemory_pending (v : Memory) (s : State) : (s.setMemory v).pending = s.pending := rfl

/-! ### `State.logEvent` -/

@[simp] theorem logEvent_controlReg (v : LogEvent) (s : State) : (s.logEvent v).controlReg = s.controlReg := rfl
@[simp] theorem logEvent_statusReg (v : LogEvent) (s : State) : (s.logEvent v).statusReg = s.statusReg := rfl
@[simp] theorem logEvent_sourceAddress (v : LogEvent) (s : State) : (s.logEvent v).sourceAddress = s.sourceAddress := rfl
@[simp] theorem logEvent_transferLength (v : LogEvent) (s : State) : (s.logEvent v).transferLength = s.transferLength := rfl
@[simp] theorem logEvent_writeScratch (v : LogEvent) (s : State) : (s.logEvent v).writeScratch = s.writeScratch := rfl
@[simp] theorem logEvent_bitCount (v : LogEvent) (s : State) : (s.logEvent v).bitCount = s.bitCount := rfl
@[simp] theorem logEvent_startFlag (v : LogEvent) (s : State) : (s.logEvent v).startFlag = s.startFlag := rfl
@[simp] theorem logEvent_interruptLine (v : LogEvent) (s : State) : (s.logEvent v).interruptLine = s.interruptLine := rfl
@[simp] theorem logEvent_log (v : LogEvent) (s : State) : (s.logEvent v).log = s.log ++ [v] := rfl
@[simp] theorem logEvent_replies (v : LogEvent) (s : State) : (s.logEvent v).replies = s.replies := rfl
@[simp] theorem logEvent_memory (v : LogEvent) (s : State) : (s.logEvent v).memory = s.memory := rfl
@[simp] theorem logEvent_cfg (v : LogEvent) (s : State) : (s.logEvent v).cfg = s.cfg := rfl
@[simp] theorem logEvent_attached (v : LogEvent) (s : State) : (s.logEvent v).attached = s.attached := rfl
@[simp] theorem logEvent_pending (v : LogEvent) (s : State) : (s.logEvent v).pending = s.pending := rfl

/-! ### `State.reply` -/

@[simp] theorem reply_controlReg (v : Reply) (s : State) : (s.reply v).controlReg = s.controlReg := rfl
@[simp] theorem reply_statusReg (v : Reply) (s : State) : (s.reply v).statusReg = s.statusReg := rfl
@[simp] theorem reply_sourceAddress (v : Reply) (s : State) : (s.reply v).sourceAddress = s.sourceAddress := rfl
@[simp] theorem reply_transferLength (v : Reply) (s : State) : (s.reply v).transferLength = s.transferLength := rfl
@[simp] theorem reply_writeScratch (v : Reply) (s : State) : (s.reply v).writeScratch = s.writeScratch := rfl
@[simp] theorem reply_bitCount (v : Reply) (s : State) : (s.reply v).bitCount = s.bitCount := rfl
@[simp] theorem reply_startFlag (v : Reply) (s : State) : (s.reply v).startFlag = s.startFlag := rfl
@[simp] theorem reply_interruptLine (v : Reply) (s : State) : (s.reply v).interruptLine = s.interruptLine := rfl
@[simp] theorem reply_log (v : Reply) (s : State) : (s.reply v).log = s.log := rfl
@[simp] theorem reply_replies (v : Reply) (s : State) : (s.reply v).replies = s.replies ++ [v] := rfl
@[simp] theorem reply_memory (v : Reply) (s : State) : (s.reply v).memory = s.memory := rfl
@[simp] theorem reply_cfg (v : Reply) (s : State) : (s.reply v).cfg = s.cfg := rfl
@[simp] theorem reply_attached (v : Reply) (s : State) : (s.reply v).attached = s.attached := rfl
@[simp] theorem reply_pending (v : Reply) (s : State) : (s.reply v).pending = s.pending := rfl

/-! ### `State.setPending` -/

@[simp] theorem setPending_controlReg (v : List HostMove) (s : State) : (s.setPending v).controlReg = s.controlReg := rfl
@[simp] theorem setPending_statusReg (v : List HostMove) (s : State) : (s.setPending v).statusReg = s.statusReg := rfl
@[simp] theorem setPending_sourceAddress (v : List HostMove) (s : State) : (s.setPending v).sourceAddress = s.sourceAddress := rfl
@[simp] theorem setPending_transferLength (v : List HostMove) (s : State) : (s.setPending v).transferLength = s.transferLength := rfl
@[simp] theorem setPending_writeScratch (v : List HostMove) (s : State) : (s.setPending v).writeScratch = s.writeScratch := rfl
@[simp] theorem setPending_bitCount (v : List HostMove) (s : State) : (s.setPending v).bitCount = s.bitCount := rfl
@[simp] theorem setPending_startFlag (v : List HostMove) (s : State) : (s.setPending v).startFlag = s.startFlag := rfl
@[simp] theorem setPending_interruptLine (v : List HostMove) (s : State) : (s.setPending v).interruptLine = s.interruptLine := rfl
@[simp] theorem setPending_log (v : List HostMove) (s : State) : (s.setPending v).log = s.log := rfl
@[simp] theorem setPending_replies (v : List HostMove) (s : State) : (s.setPending v).replies = s.replies := rfl
@[simp] theorem setPending_memory (v : List HostMove) (s : State) : (s.setPending v).memory = s.memory := rfl
@[simp] theorem setPending_cfg (v : List HostMove) (s : State) : (s.setPending v).cfg = s.cfg := rfl
@[simp] theorem setPending_attached (v : List HostMove) (s : State) : (s.setPending v).attached = s.attached := rfl
@[simp] theorem setPending_pending (v : List HostMove) (s : State) : (s.setPending v).pending = v := rfl

/-! ### `State.setStartFlag` -/

@[simp] theorem setStartFlag_controlReg (s : State) : s.setStartFlag.controlReg = s.controlReg := rfl
@[simp] theorem setStartFlag_statusReg (s : State) : s.setStartFlag.statusReg = s.statusReg := rfl
@[simp] theorem setStartFlag_sourceAddress (s : State) : s.setStartFlag.sourceAddress = s.sourceAddress := rfl
@[simp] theorem setStartFlag_transferLength (s : State) : s.setStartFlag.transferLength = s.transferLength := rfl
@[simp] theorem setStartFlag_writeScratch (s : State) : s.setStartFlag.writeScratch = s.writeScratch := rfl
@[simp] theorem setStartFlag_bitCount (s : State) : s.setStartFlag.bitCount = s.bitCount := rfl
@[simp] theorem setStartFlag_startFlag (s : State) : s.setStartFlag.startFlag = true := rfl
@[simp] theorem setStartFlag_interruptLine (s : State) : s.setStartFlag.interruptLine = s.interruptLine := rfl
@[simp] theorem setStartFlag_log (s : State) : s.setStartFlag.log = s.log := rfl
@[simp] theorem setStartFlag_replies (s : State) : s.setStartFlag.replies = s.replies := rfl
@[simp] theorem setStartFlag_memory (s : State) : s.setStartFlag.memory = s.memory := rfl
@[simp] theorem setStartFlag_cfg (s : State) : s.setStartFlag.cfg = s.cfg := rfl
@[simp] theorem setStartFlag_attached (s : State) : s.setStartFlag.attached = s.attached := rfl
@[simp] theorem setStartFlag_pending (s : State) : s.setStartFlag.pending = s.pending := rfl

end Sys2Proof.Machine
end

