-- ==== Sys2Proof/Laws/Memory.lean ====
section
/-! SUPPORT. Laws/Memory.lean: read after write, and that every memory operation keeps the canonical form. -/

namespace Sys2Proof.Machine

theorem Memory.wf_nil : Memory.Wf [] := ⟨.nil, by simp⟩

theorem Memory.wf_cons {a : Nat} {b : Byte} {m : Memory} :
    Memory.Wf ((a, b) :: m) ↔ (∀ x ∈ m, a < x.1) ∧ b ≠ unlistedByte ∧ Memory.Wf m := by
  simp only [Memory.Wf, List.pairwise_cons, List.forall_mem_cons]
  tauto

/-- An address below every listed one reads as unlisted. -/
theorem Memory.readByte_below {m : Memory} {x : Nat} (h : ∀ c ∈ m, x < c.1) : m.readByte x = unlistedByte := by
  induction m with
  | nil => rfl
  | cons c m ih =>
    obtain ⟨a, b⟩ := c
    have hx : x < a := h (a, b) (by simp)
    simp only [Memory.readByte, if_neg (Nat.ne_of_lt hx)]
    exact ih fun c hc => h c (by simp [hc])

theorem Memory.mem_writeByte {m : Memory} {x : Nat} {v : Byte} {c : Host.Cell} (h : c ∈ m.writeByte x v) :
    c = (x, v) ∨ c ∈ m := by
  induction m with
  | nil =>
    simp only [Memory.writeByte] at h
    split at h <;> simp_all
  | cons d m ih =>
    obtain ⟨a, b⟩ := d
    simp only [Memory.writeByte] at h
    split_ifs at h <;> simp only [List.mem_cons] at h ⊢ <;> tauto

/-- A write keeps the canonical form. -/
theorem Memory.writeByte_wf {m : Memory} (h : m.Wf) (x : Nat) (v : Byte) : (m.writeByte x v).Wf := by
  induction m with
  | nil =>
    simp only [Memory.writeByte]
    split
    · exact Memory.wf_nil
    · simp_all [Memory.Wf]
  | cons c m ih =>
    obtain ⟨a, b⟩ := c
    obtain ⟨hlt, hb, hm⟩ := Memory.wf_cons.1 h
    simp only [Memory.writeByte]
    split_ifs with h1 h2 h3 h4
    · exact h
    · refine Memory.wf_cons.2 ⟨fun c hc => ?_, h2, h⟩
      rcases List.mem_cons.1 hc with rfl | hc
      · exact h1
      · exact Nat.lt_trans h1 (hlt c hc)
    · exact hm
    · exact Memory.wf_cons.2 ⟨fun c hc => h3 ▸ hlt c hc, h4, hm⟩
    · refine Memory.wf_cons.2 ⟨fun c hc => ?_, hb, ih hm⟩
      rcases Memory.mem_writeByte hc with rfl | hc
      · exact Nat.lt_of_le_of_ne (Nat.le_of_not_lt h1) (Ne.symm h3)
      · exact hlt c hc

/-- A read after a write to the same address gives the value written. -/
theorem Memory.readByte_writeByte_same {m : Memory} (h : m.Wf) (x : Nat) (v : Byte) :
    (m.writeByte x v).readByte x = v := by
  induction m with
  | nil =>
    simp only [Memory.writeByte]
    split <;> simp_all [Memory.readByte]
  | cons c m ih =>
    obtain ⟨a, b⟩ := c
    obtain ⟨hlt, hb, hm⟩ := Memory.wf_cons.1 h
    simp only [Memory.writeByte]
    split_ifs with h1 h2 h3 h4
    · rw [h2]
      refine Memory.readByte_below fun c hc => ?_
      rcases List.mem_cons.1 hc with rfl | hc
      · exact h1
      · exact Nat.lt_trans h1 (hlt c hc)
    · simp [Memory.readByte]
    · rw [h4, h3]
      exact Memory.readByte_below hlt
    · simp [Memory.readByte]
    · simp [Memory.readByte, h3, ih hm]

/-- A write leaves every other address alone. -/
theorem Memory.readByte_writeByte_other {m : Memory} {x y : Nat} (hxy : y ≠ x) (v : Byte) :
    (m.writeByte x v).readByte y = m.readByte y := by
  induction m with
  | nil =>
    simp only [Memory.writeByte]
    split <;> simp [Memory.readByte, hxy]
  | cons c m ih =>
    obtain ⟨a, b⟩ := c
    simp only [Memory.writeByte]
    split_ifs with h1 h2 h3 h4
    · rfl
    · simp [Memory.readByte, hxy]
    · subst h3; simp [Memory.readByte, hxy]
    · subst h3; simp [Memory.readByte, hxy]
    · simp [Memory.readByte, ih]

theorem Memory.writeBytes_wf {m : Memory} (h : m.Wf) (addr : Nat) (bs : List Byte) : (m.writeBytes addr bs).Wf := by
  induction bs generalizing m addr with
  | nil => exact h
  | cons b bs ih => exact ih (Memory.writeByte_wf h addr b) (addr + 1)

/-- A block write leaves every address outside the block alone. -/
theorem Memory.readByte_writeBytes_outside {m : Memory} {addr y : Nat} {bs : List Byte}
    (hy : y < addr ∨ addr + bs.length ≤ y) : (m.writeBytes addr bs).readByte y = m.readByte y := by
  induction bs generalizing m addr with
  | nil => rfl
  | cons b bs ih =>
    simp only [List.length_cons] at hy
    rw [Memory.writeBytes, ih (by omega), Memory.readByte_writeByte_other (by omega)]

/-- A block write leaves the list's bytes at the block's addresses. -/
theorem Memory.readByte_writeBytes_inside {m : Memory} (h : m.Wf) {addr j : Nat} {bs : List Byte}
    (hj : j < bs.length) : (m.writeBytes addr bs).readByte (addr + j) = bs[j] := by
  induction bs generalizing m addr j with
  | nil => simp at hj
  | cons b bs ih =>
    cases j with
    | zero =>
      rw [Memory.writeBytes, Memory.readByte_writeBytes_outside (by omega)]
      exact Memory.readByte_writeByte_same h addr b
    | succ j =>
      have := ih (Memory.writeByte_wf h addr b) (addr := addr + 1) (j := j) (by simpa using hj)
      simpa [Memory.writeBytes, Nat.add_assoc, Nat.add_comm 1 j] using this

/-- A canonical memory is determined by what its bytes read as. -/
theorem Memory.ext_readByte {m m' : Memory} (h : m.Wf) (h' : m'.Wf) (hr : ∀ x, m.readByte x = m'.readByte x) :
    m = m' := by
  induction m generalizing m' with
  | nil =>
    cases m' with
    | nil => rfl
    | cons c m' =>
      obtain ⟨a, b⟩ := c
      have := hr a
      simp only [Memory.readByte] at this
      exact absurd this.symm (by simpa using (Memory.wf_cons.1 h').2.1)
  | cons c m ih =>
    obtain ⟨a, b⟩ := c
    obtain ⟨hlt, hb, hm⟩ := Memory.wf_cons.1 h
    cases m' with
    | nil =>
      have := hr a
      simp only [Memory.readByte] at this
      exact absurd this (by simpa using hb)
    | cons d m' =>
      obtain ⟨a', b'⟩ := d
      obtain ⟨hlt', hb', hm'⟩ := Memory.wf_cons.1 h'
      have haa : a = a' := by
        rcases Nat.lt_trichotomy a a' with hl | he | hl
        · have hx := hr a
          rw [Memory.readByte_below (m := (a', b') :: m') (x := a)] at hx
          · exact absurd (by simpa [Memory.readByte] using hx) hb
          · intro c hc
            rcases List.mem_cons.1 hc with rfl | hc
            · exact hl
            · exact Nat.lt_trans hl (hlt' c hc)
        · exact he
        · have hx := hr a'
          rw [Memory.readByte_below (m := (a, b) :: m) (x := a')] at hx
          · exact absurd (by simpa [Memory.readByte] using hx.symm) hb'
          · intro c hc
            rcases List.mem_cons.1 hc with rfl | hc
            · exact hl
            · exact Nat.lt_trans hl (hlt c hc)
      subst haa
      have hbb : b = b' := by simpa [Memory.readByte] using hr a
      subst hbb
      congr 1
      refine ih hm hm' fun x => ?_
      have hx := hr x
      simp only [Memory.readByte] at hx
      by_cases hxa : x = a
      · subst hxa
        rw [Memory.readByte_below hlt, Memory.readByte_below hlt']
      · simpa [hxa] using hx

end Sys2Proof.Machine
end

