-- ==== Sys2Proof/Laws/Ops.lean ====
section
/-! SUPPORT. Laws/Ops.lean: what each shared operation of Machine/Ops.lean can do, said once. -/

namespace Sys2Proof

theorem Cfg.blockValid_iff {c : Cfg} {addr n : Nat} :
    c.blockValid addr n = true ↔ ∀ j, j < n → c.isValid (addr + j) = true := by
  simp [Cfg.blockValid, List.all_eq_true]

/-- A valid byte lies below `2^PA_WIDTH`, outside the device's windows, in a region the platform backs. -/
theorem Cfg.isValid_iff {c : Cfg} {a : Nat} :
    c.isValid a = true ↔ a < 2 ^ c.paWidth ∧ c.inOwnWindow a = false ∧ ∃ r ∈ c.ram, r.holds a = true := by
  simp [Cfg.isValid, and_assoc]

end Sys2Proof

namespace Sys2Proof.Machine

/-! ### The memory interface -/

theorem memRead_eq_some_iff {s : State} {addr n : Nat} {bs : List Byte} :
    s.memRead addr n = some bs ↔
      (∀ j, j < n → s.cfg.isValid (addr + j) = true) ∧
        bs = (List.range n).map (fun j => s.memory.readByte (addr + j)) := by
  unfold State.memRead
  split
  · rename_i h
    have h := Cfg.blockValid_iff.1 h
    exact ⟨fun e => ⟨h, (Option.some.inj e).symm⟩, fun e => congrArg some e.2.symm⟩
  · rename_i h
    rw [Cfg.blockValid_iff] at h
    simp [h]

theorem memRead_eq_none_iff {s : State} {addr n : Nat} :
    s.memRead addr n = none ↔ ∃ j, j < n ∧ s.cfg.isValid (addr + j) = false := by
  unfold State.memRead
  split
  · rename_i h
    rw [Cfg.blockValid_iff] at h
    simpa using fun j hj => h j hj
  · rename_i h
    rw [Cfg.blockValid_iff] at h
    simpa using h

theorem memWrite_eq_some_iff {s t : State} {addr : Nat} {bs : List Byte} :
    s.memWrite addr bs = some t ↔
      (∀ j, j < bs.length → s.cfg.isValid (addr + j) = true) ∧ t = s.setMemory (s.memory.writeBytes addr bs) := by
  unfold State.memWrite
  split
  · rename_i h
    have h := Cfg.blockValid_iff.1 h
    exact ⟨fun e => ⟨h, (Option.some.inj e).symm⟩, fun e => congrArg some e.2.symm⟩
  · rename_i h
    rw [Cfg.blockValid_iff] at h
    simp [h]

theorem memWrite_eq_none_iff {s : State} {addr : Nat} {bs : List Byte} :
    s.memWrite addr bs = none ↔ ∃ j, j < bs.length ∧ s.cfg.isValid (addr + j) = false := by
  unfold State.memWrite
  split
  · rename_i h
    rw [Cfg.blockValid_iff] at h
    simpa using fun j hj => h j hj
  · rename_i h
    rw [Cfg.blockValid_iff] at h
    simpa using h

/-! ### Raising an error kind -/

@[simp] theorem raise_outOfRangeAccess (d : Direction) (addr width : Nat) (s : State) :
    s.raise .outOfRangeAccess d addr width = s.logEvent ⟨.outOfRangeAccess, d, addr, width⟩ := rfl

@[simp] theorem raise_resetMisuse (d : Direction) (addr width : Nat) (s : State) :
    s.raise .resetMisuse d addr width = s.logEvent ⟨.resetMisuse, d, addr, width⟩ := rfl

@[simp] theorem raise_memoryAccessFailure (d : Direction) (addr width : Nat) (s : State) :
    s.raise .memoryAccessFailure d addr width = s := rfl

@[simp] theorem raise_reservedBitsSet (d : Direction) (addr width : Nat) (s : State) :
    s.raise .reservedBitsSet d addr width = s := rfl

/-- Whatever is raised, only the log may change, and by one event at most (60_exceptions.md R139). -/
theorem raise_cases (k : ErrorKind) (d : Direction) (addr width : Nat) (s : State) :
    s.raise k d addr width = s ∨ s.raise k d addr width = s.logEvent ⟨k, d, addr, width⟩ := by
  cases k <;> simp

/-! ### Operations of one configuration -/

theorem onlyInMode_eq_next_iff {m : Reg0Mode} {r s t : State} :
    s.onlyInMode m r = .next t ↔ s.cfg.reg0Mode = m ∧ t = r := by
  unfold State.onlyInMode
  split <;> simp_all [eq_comm]

theorem onlyInMode_of_mode {m : Reg0Mode} {r s : State} (h : s.cfg.reg0Mode = m) : s.onlyInMode m r = .next r := by
  simp [State.onlyInMode, h]

theorem onlyInMode_of_other {m : Reg0Mode} {r s : State} (h : s.cfg.reg0Mode ≠ m) :
    s.onlyInMode m r = .refused .operationAbsent := by
  simp [State.onlyInMode, h]

end Sys2Proof.Machine
end

