-- ==== Sys2Proof/Laws/Transfer.lean ====
section
/-! SUPPORT. Laws/Transfer.lean: what a DMA transfer can do, said once (42_dma.md R100 to R108). -/

namespace Sys2Proof.Machine

@[simp] theorem noteReservedBits_eq (v : Word) (s : State) : s.noteReservedBits v = s := by
  simp [State.noteReservedBits]

@[simp] theorem transferFailed_eq (d : Direction) (addr width : Nat) (s : State) :
    s.transferFailed d addr width = (s, .dmaFailed) := rfl

theorem sinkWord_accumulate {s : State} (h : s.cfg.sinkMode = .accumulate) (w : Word) :
    s.sinkWord w = some (s.accumulate w) := by
  simp [State.sinkWord, h]

theorem sinkWord_relay {s : State} (h : s.cfg.sinkMode = .relay) (w : Word) :
    s.sinkWord w = s.memWrite s.cfg.relayDest (bytesLE32 w) := by
  simp [State.sinkWord, h]

theorem setBitCount_setBitCount (a b : Count) (s : State) : (s.setBitCount a).setBitCount b = s.setBitCount b := rfl

theorem setMemory_setMemory (a b : Memory) (s : State) : (s.setMemory a).setMemory b = s.setMemory b := rfl

/-- The accumulate sink never fails and adds every word's bits (42_dma.md R106). -/
theorem sinkWords_accumulate {s : State} (h : s.cfg.sinkMode = .accumulate) (ws : List Word) :
    sinkWords ws s = (s.setBitCount (s.bitCount + BitVec.ofNat 64 (ws.map popcount32).sum), .okay) := by
  induction ws generalizing s with
  | nil => simp [sinkWords, State.setBitCount]
  | cons w ws ih =>
    rw [sinkWords, sinkWord_accumulate h]
    simp only
    rw [ih (s := s.accumulate w) h]
    simp only [State.accumulate, setBitCount_bitCount, setBitCount_setBitCount, List.map_cons, List.sum_cons]
    rw [BitVec.ofNat_add, BitVec.add_assoc]

/-- With `RELAY_DEST` not writable the first word already fails, and nothing is written (42_dma.md R107). -/
theorem sinkWords_relay_blocked {s : State} (h : s.cfg.sinkMode = .relay) (hd : ¬ s.RelayWritable) {ws : List Word}
    (hw : ws ≠ []) : sinkWords ws s = (s, .dmaFailed) := by
  cases ws with
  | nil => exact absurd rfl hw
  | cons w ws =>
    have : s.memWrite s.cfg.relayDest (bytesLE32 w) = none := by
      rw [memWrite_eq_none_iff, bytesLE32_length]
      simpa [State.RelayWritable] using hd
    rw [sinkWords, sinkWord_relay h, this, transferFailed_eq]

/-- The memory a relay of the words leaves: each is written to the same four bytes, in order (42_dma.md R107). -/
def relayedMemory (dest : Nat) (ws : List Word) (m : Memory) : Memory :=
  ws.foldl (fun m w => m.writeBytes dest (bytesLE32 w)) m

theorem sinkWords_relay {s : State} (h : s.cfg.sinkMode = .relay) (hd : s.RelayWritable) (ws : List Word) :
    sinkWords ws s = (s.setMemory (relayedMemory s.cfg.relayDest ws s.memory), .okay) := by
  induction ws generalizing s with
  | nil => rfl
  | cons w ws ih =>
    have : s.memWrite s.cfg.relayDest (bytesLE32 w) =
        some (s.setMemory (s.memory.writeBytes s.cfg.relayDest (bytesLE32 w))) :=
      memWrite_eq_some_iff.2 ⟨hd, rfl⟩
    rw [sinkWords, sinkWord_relay h, this]
    simp only
    exact ih (s := s.setMemory (s.memory.writeBytes s.cfg.relayDest (bytesLE32 w))) h hd

theorem relayedMemory_wf {m : Memory} (h : m.Wf) (dest : Nat) (ws : List Word) : (relayedMemory dest ws m).Wf := by
  induction ws generalizing m with
  | nil => exact h
  | cons w ws ih => exact ih (Memory.writeBytes_wf h dest (bytesLE32 w))

theorem relayedMemory_outside {m : Memory} {dest a : Nat} (ha : a < dest ∨ dest + 4 ≤ a) (ws : List Word) :
    (relayedMemory dest ws m).readByte a = m.readByte a := by
  induction ws generalizing m with
  | nil => rfl
  | cons w ws ih =>
    rw [relayedMemory, List.foldl_cons]
    exact (ih (m := m.writeBytes dest (bytesLE32 w))).trans (Memory.readByte_writeBytes_outside (by simpa using ha))

/-- The last word wins (42_dma.md R107). -/
theorem relayedMemory_inside {m : Memory} (h : m.Wf) {dest j : Nat} (hj : j < 4) (ws : List Word) (w : Word) :
    (relayedMemory dest (ws ++ [w]) m).readByte (dest + j) = (bytesLE32 w)[j]'(by simpa using hj) := by
  rw [relayedMemory, List.foldl_append]
  exact Memory.readByte_writeBytes_inside (relayedMemory_wf h dest ws) (by simpa using hj)

/-- The words of the block the engine reads are the block's as memory holds them (42_dma.md R104, R105). -/
theorem wordsOf_block (s : State) (n : Nat) :
    wordsOf ((List.range (4 * n)).map (fun j => s.memory.readByte (s.sourceAddress.toNat + j))) =
      (List.range n).map s.blockWord := by
  rw [wordsOf_range (fun j => s.memory.readByte (s.sourceAddress.toNat + j)) n]
  rfl

/-- Everything a transfer can do, by cause (42_dma.md R102 to R108, R112). -/
theorem runTransfer_cases (s : State) :
    (wordCount s.transferLength = 0 ∧ s.runTransfer = (s, .okay)) ∨
    (0 < wordCount s.transferLength ∧ ¬ s.BlockReadable (wordCount s.transferLength) ∧
      s.runTransfer = (s, .dmaFailed)) ∨
    (0 < wordCount s.transferLength ∧ s.BlockReadable (wordCount s.transferLength) ∧ s.cfg.sinkMode = .accumulate ∧
      s.runTransfer =
        (s.setBitCount (s.bitCount + BitVec.ofNat 64 (s.blockBits (wordCount s.transferLength))), .okay)) ∨
    (0 < wordCount s.transferLength ∧ s.BlockReadable (wordCount s.transferLength) ∧ s.cfg.sinkMode = .relay ∧
      ¬ s.RelayWritable ∧ s.runTransfer = (s, .dmaFailed)) ∨
    (0 < wordCount s.transferLength ∧ s.BlockReadable (wordCount s.transferLength) ∧ s.cfg.sinkMode = .relay ∧
      s.RelayWritable ∧
      s.runTransfer =
        (s.setMemory (relayedMemory s.cfg.relayDest ((List.range (wordCount s.transferLength)).map s.blockWord)
          s.memory), .okay)) := by
  rcases Nat.eq_zero_or_pos (wordCount s.transferLength) with h0 | h0
  · exact .inl ⟨h0, by simp [State.runTransfer, h0]⟩
  right
  by_cases hr : s.BlockReadable (wordCount s.transferLength)
  · right
    have hm : s.memRead s.sourceAddress.toNat (4 * wordCount s.transferLength) = some _ :=
      memRead_eq_some_iff.2 ⟨hr, rfl⟩
    have hrun : s.runTransfer =
        sinkWords ((List.range (wordCount s.transferLength)).map s.blockWord) s := by
      simp only [State.runTransfer, Nat.ne_of_gt h0, if_false, hm, wordsOf_block]
    have hne : (List.range (wordCount s.transferLength)).map s.blockWord ≠ [] := by
      simpa using Nat.ne_of_gt h0
    cases hs : s.cfg.sinkMode with
    | accumulate =>
      refine .inl ⟨h0, hr, rfl, ?_⟩
      rw [hrun, sinkWords_accumulate hs, List.map_map]
      rfl
    | relay =>
      right
      by_cases hd : s.RelayWritable
      · exact .inr ⟨h0, hr, rfl, hd, by rw [hrun, sinkWords_relay hs hd]⟩
      · exact .inl ⟨h0, hr, rfl, hd, by rw [hrun, sinkWords_relay_blocked hs hd hne]⟩
  · left
    have hm : s.memRead s.sourceAddress.toNat (4 * wordCount s.transferLength) = none := by
      rw [memRead_eq_none_iff]
      simpa [State.BlockReadable] using hr
    exact ⟨h0, hr, by simp [State.runTransfer, Nat.ne_of_gt h0, hm]⟩

/-- A transfer changes `bitCount` and system memory and nothing else, and keeps the canonical form. -/
theorem runTransfer_frame (s : State) :
    ∃ n m, s.runTransfer.1 = (s.setBitCount n).setMemory m ∧ (s.memory.Wf → m.Wf) ∧
      (s.cfg.sinkMode = .relay → n = s.bitCount) ∧ (s.cfg.sinkMode = .accumulate → m = s.memory) := by
  rcases runTransfer_cases s with ⟨_, h⟩ | ⟨_, _, h⟩ | ⟨_, _, hs, h⟩ | ⟨_, _, hs, _, h⟩ | ⟨_, _, hs, _, h⟩
  · exact ⟨s.bitCount, s.memory, by rw [h]; rfl, id, fun _ => rfl, fun _ => rfl⟩
  · exact ⟨s.bitCount, s.memory, by rw [h]; rfl, id, fun _ => rfl, fun _ => rfl⟩
  · exact ⟨s.bitCount + BitVec.ofNat 64 (s.blockBits (wordCount s.transferLength)), s.memory, by rw [h]; rfl, id,
      by simp [hs], fun _ => rfl⟩
  · exact ⟨s.bitCount, s.memory, by rw [h]; rfl, id, fun _ => rfl, fun _ => rfl⟩
  · exact ⟨s.bitCount, relayedMemory s.cfg.relayDest ((List.range (wordCount s.transferLength)).map s.blockWord)
      s.memory, by rw [h]; rfl, fun hw => relayedMemory_wf hw _ _, fun _ => rfl, by simp [hs]⟩

end Sys2Proof.Machine
end

