-- ==== Sys2Proof/Laws/Exec.lean ====
section
/-! SUPPORT. Laws/Exec.lean: what an operation and a step can do, said once: inversion lemmas that the provers cite
instead of unfolding `exec` and `step`. -/

namespace Sys2Proof

theorem dispatchRead_wf {c : Cfg} {a w : Nat} (h : (Transaction.read a w).Wf c) : (c.dispatchRead a w).Wf c = true := by
  unfold Cfg.dispatchRead
  split
  · split <;> simp_all [Instr.Wf]
  all_goals simp_all [Instr.Wf]

theorem dispatchWrite_wf {c : Cfg} {a w : Nat} {v : BusValue} (h : (Transaction.write a w v).Wf c) :
    (c.dispatchWrite a w v).Wf c = true := by
  unfold Cfg.dispatchWrite
  split
  · split <;> simp_all [Instr.Wf]
  all_goals simp_all [Instr.Wf]

/-- What decodes is a transaction of the format of R50, and what it decodes to is an operation the device has. -/
theorem decode_wf {c : Cfg} {tx : Transaction} {i : Instr} (h : decode c tx = .ok i) :
    i.Wf c = true ∧ tx.Wf c := by
  unfold decode at h
  split at h
  · cases h
  · rename_i hf
    cases tx with
    | read a w =>
      simp only [Except.ok.injEq] at h
      exact h ▸ ⟨dispatchRead_wf hf, hf⟩
    | write a w v =>
      simp only [Except.ok.injEq] at h
      exact h ▸ ⟨dispatchWrite_wf hf, hf⟩

end Sys2Proof

namespace Sys2Proof.Machine

/-! ### Operations -/

theorem exec_wrLength (v : Word) (s : State) :
    exec (.wrLength v) s = .next (answerTransfer ((s.latchLength v).runTransfer)) := by
  simp [exec, execWrLength]

/-- All a length write can change (42_dma.md R101, R106 to R108). -/
theorem exec_wrLength_frame {v : Word} {s t : State} (h : exec (.wrLength v) s = .next t) :
    ∃ n m r, t = (((s.latchLength v).setBitCount n).setMemory m).reply (.write r) ∧ (s.memory.Wf → m.Wf) ∧
      (s.cfg.sinkMode = .relay → n = s.bitCount) ∧ (s.cfg.sinkMode = .accumulate → m = s.memory) := by
  rw [exec_wrLength] at h
  obtain ⟨n, m, hr, h1, h2, h3⟩ := runTransfer_frame (s.latchLength v)
  cases h
  refine ⟨n, m, (s.latchLength v).runTransfer.2, ?_, h1, h2, h3⟩
  rw [answerTransfer]
  simp only [State.answerWrite, hr]

theorem exec_rdControl_eq_next_iff {s t : State} :
    exec .rdControl s = .next t ↔ s.cfg.reg0Mode = .control ∧ t = s.answerWord s.controlReg := onlyInMode_eq_next_iff

theorem exec_wrControl_eq_next_iff {v : Word} {s t : State} :
    exec (.wrControl v) s = .next t ↔ s.cfg.reg0Mode = .control ∧ t = (s.setControlReg v).answerWrite .okay :=
  onlyInMode_eq_next_iff

theorem exec_rdBitcount_eq_next_iff {s t : State} :
    exec .rdBitcount s = .next t ↔ s.cfg.reg0Mode = .dataIn ∧ t = s.answerWord (lowWord s.bitCount) :=
  onlyInMode_eq_next_iff

theorem exec_wrDatain_eq_next_iff {v : Word} {s t : State} :
    exec (.wrDatain v) s = .next t ↔
      s.cfg.reg0Mode = .dataIn ∧ t = ((s.setWriteScratch v).accumulate v).answerWrite .okay :=
  onlyInMode_eq_next_iff

/-- A reset write is requested exactly by a non-zero value (40_register_file.md R81). -/
theorem resetRequested_iff (d : ResetData) : resetRequested d = true ↔ d.toBus ≠ 0 := by
  cases d <;> simp [resetRequested, ResetData.toBus, ← BitVec.toNat_inj]

/-- Everything a length write can do, by cause (42_dma.md R100). -/
theorem exec_wrLength_cases {v : Word} {s t : State} (h : exec (.wrLength v) s = .next t) :
    (wordsRequested v = 0 ∧ t = (s.latchLength v).answerWrite .okay) ∨
    (0 < wordsRequested v ∧ ¬ s.BlockReadable (wordsRequested v) ∧ t = (s.latchLength v).answerWrite .dmaFailed) ∨
    (0 < wordsRequested v ∧ s.BlockReadable (wordsRequested v) ∧ s.cfg.sinkMode = .accumulate ∧
      t = ((s.latchLength v).setBitCount
        (s.bitCount + BitVec.ofNat 64 (s.blockBits (wordsRequested v)))).answerWrite .okay) ∨
    (0 < wordsRequested v ∧ s.BlockReadable (wordsRequested v) ∧ s.cfg.sinkMode = .relay ∧ ¬ s.RelayWritable ∧
      t = (s.latchLength v).answerWrite .dmaFailed) ∨
    (0 < wordsRequested v ∧ s.BlockReadable (wordsRequested v) ∧ s.cfg.sinkMode = .relay ∧ s.RelayWritable ∧
      t = ((s.latchLength v).setMemory (relayedMemory s.cfg.relayDest
        ((List.range (wordsRequested v)).map s.blockWord) s.memory)).answerWrite .okay) := by
  rw [exec_wrLength] at h
  cases h
  have hn : wordCount (s.latchLength v).transferLength = wordsRequested v := wordCount_maskLength v
  rcases runTransfer_cases (s.latchLength v) with ⟨h0, h⟩ | ⟨h0, hr, h⟩ | ⟨h0, hr, hs, h⟩ | ⟨h0, hr, hs, hd, h⟩ |
    ⟨h0, hr, hs, hd, h⟩ <;> rw [hn] at * <;> rw [h]
  · exact .inl ⟨h0, rfl⟩
  · exact .inr (.inl ⟨h0, hr, rfl⟩)
  · exact .inr (.inr (.inl ⟨h0, hr, hs, rfl⟩))
  · exact .inr (.inr (.inr (.inl ⟨h0, hr, hs, hd, rfl⟩)))
  · exact .inr (.inr (.inr (.inr ⟨h0, hr, hs, hd, rfl⟩)))

/-- What a reset write never changes (40_register_file.md R81). -/
theorem exec_wrReset_frame {d : ResetData} {s t : State} (h : exec (.wrReset d) s = .next t) :
    ∃ w n, t = ((s.setWriteScratch w).setBitCount n).answerWrite .okay := by
  simp only [exec, execWrReset, Host.Outcome.next.injEq] at h
  subst h
  split
  · exact ⟨0, 0, rfl⟩
  · exact ⟨s.writeScratch, s.bitCount, rfl⟩

/-- What no operation changes. -/
theorem exec_frame {i : Instr} {s t : State} (h : exec i s = .next t) :
    t.cfg = s.cfg ∧ t.attached = s.attached ∧ t.pending = s.pending ∧ t.interruptLine = s.interruptLine := by
  cases i with
  | rdControl => obtain ⟨-, rfl⟩ := exec_rdControl_eq_next_iff.1 h; exact ⟨rfl, rfl, rfl, rfl⟩
  | wrControl v => obtain ⟨-, rfl⟩ := exec_wrControl_eq_next_iff.1 h; exact ⟨rfl, rfl, rfl, rfl⟩
  | rdBitcount => obtain ⟨-, rfl⟩ := exec_rdBitcount_eq_next_iff.1 h; exact ⟨rfl, rfl, rfl, rfl⟩
  | wrDatain v => obtain ⟨-, rfl⟩ := exec_wrDatain_eq_next_iff.1 h; exact ⟨rfl, rfl, rfl, rfl⟩
  | wrLength v => obtain ⟨n, m, r, rfl, -⟩ := exec_wrLength_frame h; exact ⟨rfl, rfl, rfl, rfl⟩
  | wrReset d => obtain ⟨w, n, rfl⟩ := exec_wrReset_frame h; exact ⟨rfl, rfl, rfl, rfl⟩
  | _ => cases h; exact ⟨rfl, rfl, rfl, rfl⟩

/-! ### The step -/

theorem step_idle {s : State} (h : s.pending = []) : step s = .next s := by
  simp [step, nextMove, h]

theorem step_move {s : State} {m : HostMove} {rest : List HostMove} (h : s.pending = m :: rest) :
    step s = runMove m (s.setPending rest) := by
  simp [step, nextMove, h]

theorem issueTransaction_eq_next_iff {s t : State} {tx : Transaction} :
    issueTransaction tx s = .next t ↔ s.attached = true ∧ ∃ i, decode s.cfg tx = .ok i ∧ exec i s = .next t := by
  unfold issueTransaction
  by_cases ha : s.attached = true
  · rw [if_pos ha]
    cases decode s.cfg tx <;> simp [ha]
  · simp [ha]

theorem issueTransaction_of_decode {s : State} {tx : Transaction} {i : Instr} (ha : s.attached = true)
    (hd : decode s.cfg tx = .ok i) : issueTransaction tx s = exec i s := by
  simp [issueTransaction, ha, hd]

/-- One step over a queue of transactions runs the first. -/
theorem step_queue_cons {s : State} {tx : Transaction} {i : Instr} (txs : List Transaction) (ha : s.attached = true)
    (hd : decode s.cfg tx = .ok i) : step (s.queue (tx :: txs)) = exec i (s.queue txs) := by
  rw [step_move (s := s.queue (tx :: txs)) (m := .issue tx) (rest := txs.map .issue) rfl]
  exact issueTransaction_of_decode (s := s.queue txs) ha hd

theorem hostStore_eq_next_iff {s t : State} {a : Nat} {b : Byte} :
    hostStore a b s = .next t ↔ s.cfg.isValid a = true ∧ t = s.setMemory (s.memory.writeByte a b) := by
  unfold hostStore
  by_cases h : s.cfg.isValid a = true <;> simp [h, eq_comm]

theorem detachDevice_eq_next_iff {s t : State} :
    detachDevice s = .next t ↔ s.attached = true ∧ t = { s.zeroDevice with attached := false } := by
  unfold detachDevice
  by_cases h : s.attached = true
  · rw [if_pos h]
    exact Iff.intro (fun e => ⟨h, by cases e; rfl⟩) (fun e => by rw [e.2])
  · simp [h]

theorem createDevice_eq_next_iff {s t : State} {c : Cfg} :
    createDevice c s = .next t ↔
      s.attached = false ∧ c.Wf ∧ t = { s.zeroDevice with cfg := c, attached := true } := by
  unfold createDevice
  by_cases h : s.attached = true
  · simp [h]
  · rw [if_neg h]
    by_cases hc : c.Wf
    · rw [if_pos hc]
      exact Iff.intro (fun e => ⟨by simpa using h, hc, by cases e; rfl⟩) (fun e => by rw [e.2.2])
    · rw [if_neg hc]
      exact Iff.intro (fun e => by cases e) (fun e => absurd e.2.1 hc)

theorem hardwareReset_eq_next_iff {s t : State} : hardwareReset s = .next t ↔ s.attached = true ∧ t = s.zeroDevice := by
  unfold hardwareReset
  by_cases h : s.attached = true <;> simp [h, eq_comm]

/-- Everything a step can do. -/
theorem step_cases {s t : State} (h : step s = .next t) :
    (s.pending = [] ∧ t = s) ∨
    ∃ m rest, s.pending = m :: rest ∧
      ((∃ tx i, m = .issue tx ∧ s.attached = true ∧ decode s.cfg tx = .ok i ∧
          exec i (s.setPending rest) = .next t) ∨
        (∃ a b, m = .store a b ∧ s.cfg.isValid a = true ∧
          t = (s.setPending rest).setMemory (s.memory.writeByte a b)) ∨
        (m = .detach ∧ s.attached = true ∧ t = { (s.setPending rest).zeroDevice with attached := false }) ∨
        (∃ c, m = .create c ∧ s.attached = false ∧ c.Wf ∧
          t = { (s.setPending rest).zeroDevice with cfg := c, attached := true }) ∨
        (m = .hardwareReset ∧ s.attached = true ∧ t = (s.setPending rest).zeroDevice)) := by
  cases hp : s.pending with
  | nil =>
    rw [step_idle hp, Host.Outcome.next.injEq] at h
    exact .inl ⟨rfl, h.symm⟩
  | cons m rest =>
    rw [step_move hp] at h
    refine .inr ⟨m, rest, rfl, ?_⟩
    cases m with
    | issue tx =>
      obtain ⟨ha, i, hd, he⟩ := issueTransaction_eq_next_iff.1 h
      exact .inl ⟨tx, i, rfl, ha, hd, he⟩
    | store a b => exact .inr (.inl ⟨a, b, rfl, hostStore_eq_next_iff.1 h⟩)
    | detach => exact .inr (.inr (.inl ⟨rfl, detachDevice_eq_next_iff.1 h⟩))
    | create c => exact .inr (.inr (.inr (.inl ⟨c, rfl, createDevice_eq_next_iff.1 h⟩)))
    | hardwareReset => exact .inr (.inr (.inr (.inr ⟨rfl, hardwareReset_eq_next_iff.1 h⟩)))

end Sys2Proof.Machine
end

