-- ==== Sys2Proof/Laws/PerInstr.lean ====
section
/-! SUPPORT. Laws/PerInstr.lean: the family `EncodeFormat`: on a well-formed configuration the transaction of a
well-formed instruction has the format of 30_encoding.md R50. -/

namespace Sys2Proof.Laws.EncodeFormat

def Statement (i : Instr) : Prop := ∀ c : Cfg, c.Wf → i.Wf c = true → (encode c i).Wf c

/-- A 4-byte read inside the main window has the format of R50. -/
theorem main_read {c : Cfg} (h : c.Wf) {off : Nat} (ho : off < 0x2C) :
    (Transaction.read (c.deviceBase + off) 4).Wf c := by
  have : ¬ 2 ^ c.paWidth ≤ c.deviceBase + off := by
    obtain ⟨_, _, _, h4, _, _, h7, _⟩ := h
    omega
  simp [Transaction.Wf, Cfg.formatError, this]

/-- A 4-byte write of a word inside the main window has the format of R50. -/
theorem main_write {c : Cfg} (h : c.Wf) {off : Nat} (ho : off < 0x2C) (v : Word) :
    (Transaction.write (c.deviceBase + off) 4 (busOfWord v)).Wf c := by
  have ha : ¬ 2 ^ c.paWidth ≤ c.deviceBase + off := by
    obtain ⟨_, _, _, h4, _, _, h7, _⟩ := h
    omega
  have hv := Nat.not_le.2 (busOfWord_lt v)
  simp only [Transaction.Wf, Cfg.formatError, ha, hv, if_false]
  rfl

theorem reset_addr {c : Cfg} (h : c.Wf) : ¬ 2 ^ c.paWidth ≤ c.resetBase + offReset := by
  obtain ⟨_, _, _, _, h5, _, _, _, h9, _⟩ := h
  simp only [offReset]
  omega

theorem rdControl : Statement .rdControl := fun _ h _ => main_read h (by decide)
theorem wrControl (v : Word) : Statement (.wrControl v) := fun _ h _ => main_write h (by decide) v
theorem rdBitcount : Statement .rdBitcount := fun _ h _ => main_read h (by decide)
theorem wrDatain (v : Word) : Statement (.wrDatain v) := fun _ h _ => main_write h (by decide) v
theorem rdStatus : Statement .rdStatus := fun _ h _ => main_read h (by decide)
theorem wrStatus (v : Word) : Statement (.wrStatus v) := fun _ h _ => main_write h (by decide) v
theorem rdSrcaddr : Statement .rdSrcaddr := fun _ h _ => main_read h (by decide)
theorem wrSrcaddr (v : Word) : Statement (.wrSrcaddr v) := fun _ h _ => main_write h (by decide) v
theorem rdLength : Statement .rdLength := fun _ h _ => main_read h (by decide)
theorem wrLength (v : Word) : Statement (.wrLength v) := fun _ h _ => main_write h (by decide) v

theorem rdReset (w : ResetWidth) : Statement (.rdReset w) := fun c h _ => by
  cases w <;> simp [Transaction.Wf, encode, Cfg.formatError, ResetWidth.bytes, reset_addr h]

theorem wrReset (d : ResetData) : Statement (.wrReset d) := fun c h _ => by
  have ha := reset_addr h
  have hv := Nat.not_le.2 (resetData_toBus_lt d)
  simp only [Transaction.Wf, encode, Cfg.formatError, ha, hv, if_false]
  cases d <;> rfl

theorem rdReject (a w : Nat) : Statement (.rdReject a w) := fun c _ hi => by
  simp only [Instr.Wf, Bool.and_eq_true, decide_eq_true_eq] at hi
  exact hi.1

theorem wrReject (a w : Nat) (v : BusValue) : Statement (.wrReject a w v) := fun c _ hi => by
  simp only [Instr.Wf, Bool.and_eq_true, decide_eq_true_eq] at hi
  exact hi.1

end Sys2Proof.Laws.EncodeFormat
end

