-- ==== Sys2Proof/Tests/Slice0.lean ====
section
/-! SUPPORT. Tests/Slice0.lean: the model's own tests. Expected results are those of 95_test_vectors.md (its vector or
scenario number is given at each test) or written out from the rule cited; the configurations T1, T2, T3 are its
section 0. The last part shows, for each statement with hypotheses, states and operands that meet them. -/

namespace Sys2Proof.Tests

open Sys2Proof.Machine

/-- Configuration T1. -/
def cfgT1 : Cfg where
  reg0Mode    := .dataIn
  sinkMode    := .accumulate
  statusMode  := .idle
  statusIdle  := 2
  relayDest   := 0
  deviceBase  := 0
  resetOffset := 0x40
  mainSpan    := 0x2C
  resetSpan   := 4
  badRead     := []
  paWidth     := 64
  ram         := [⟨0x1000, 0x1000⟩]

/-- Configuration T2. -/
def cfgT2 : Cfg := { cfgT1.dmaPreset with statusIdle := 0, relayDest := 0x1800 }

/-- Configuration T3. -/
def cfgT3 : Cfg := { cfgT1 with deviceBase := 0x40000000, resetOffset := 0x1000 }

/-- The Device State as the tuple of 95_test_vectors.md section 0. -/
def device (c : Cfg) (ctl sts src len scr : Word) (n : Count) (f : Bool) : State :=
  { State.creation c with
    controlReg := ctl, statusReg := sts, sourceAddress := src, transferLength := len, writeScratch := scr
    bitCount := n, startFlag := f }

/-- The creation state `S0` in T1 and in T2. -/
def s1 : State := State.creation cfgT1
def s2 : State := State.creation cfgT2

/-- One step that runs one transaction. -/
def run1 (s : State) (tx : Transaction) : Option State := nextState? (step (s.queue [tx]))

/-- The replies a transaction adds. -/
def reply1 (s : State) (tx : Transaction) : Option (List Reply) := (run1 s tx).map State.replies

/-! ## Well-formedness refuses -/

theorem test_wf_T1 : cfgT1.Wf := by decide
theorem test_wf_T2 : cfgT2.Wf := by decide
theorem test_wf_T3 : cfgT3.Wf := by decide
theorem test_wf_hardware : Cfg.hardware.Wf := by decide
theorem test_wf_deviceBase_alignment : ¬ { cfgT1 with deviceBase := 2 }.Wf := by decide
theorem test_wf_resetBase_alignment : ¬ { cfgT1 with resetOffset := 0x41 }.Wf := by decide
theorem test_wf_windows_overlap : ¬ { cfgT1 with resetOffset := 0x28 }.Wf := by decide
theorem test_wf_main_above_space : ¬ { cfgT1 with deviceBase := 2 ^ 64 - 4 }.Wf := by decide
theorem test_wf_reset_above_space : ¬ { cfgT1 with resetOffset := 2 ^ 64 }.Wf := by decide
theorem test_wf_paWidth : ¬ { cfgT1 with paWidth := 32 }.Wf := by decide
theorem test_wf_main_span_short : ¬ { cfgT1 with mainSpan := 0x28 }.Wf := by decide
theorem test_wf_main_span_unaligned : ¬ { cfgT1 with mainSpan := 0x2E }.Wf := by decide
theorem test_wf_reset_span_short : ¬ { cfgT1 with resetSpan := 0 }.Wf := by decide
theorem test_wf_reset_span_unaligned : ¬ { cfgT1 with resetSpan := 6 }.Wf := by decide
theorem test_wf_width_zero : ¬ (Transaction.read 0 0).Wf cfgT1 := by decide
theorem test_wf_width_65 : ¬ (Transaction.write 0 65 0).Wf cfgT1 := by decide
theorem test_wf_address_too_wide : ¬ (Transaction.read (2 ^ 64) 4).Wf cfgT1 := by decide
theorem test_wf_value_too_wide : ¬ (Transaction.write 0 1 0x100).Wf cfgT1 := by decide
theorem test_wf_rdControl_absent : Instr.rdControl.Wf cfgT1 = false := by decide
theorem test_wf_wrControl_absent : (Instr.wrControl 0).Wf cfgT1 = false := by decide
theorem test_wf_rdBitcount_absent : Instr.rdBitcount.Wf cfgT2 = false := by decide
theorem test_wf_wrDatain_absent : (Instr.wrDatain 0).Wf cfgT2 = false := by decide
theorem test_wf_popcnt_absent : (PseudoOp.popcnt 0).Wf cfgT2 = false := by decide
theorem test_wf_count_absent : PseudoOp.count.Wf cfgT2 = false := by decide
theorem test_wf_rdReject_accepted : (Instr.rdReject 0x04 4).Wf cfgT1 = false := by decide
theorem test_wf_wrReject_accepted : (Instr.wrReject 0x40 1 0).Wf cfgT1 = false := by decide
theorem test_wf_rdReject_format : (Instr.rdReject 0x04 65).Wf cfgT1 = false := by decide

/-! ## Decode: every constructor, from the transactions of 95_test_vectors.md -/

/-- V28, key `0 0 00000000` -/
theorem test_decode_rdControl : DecodesTo cfgT2 (.read 0x00 4) 0b0000000000 .rdControl := by decide
/-- V29, key `1 0 00000000` -/
theorem test_decode_wrControl :
    DecodesTo cfgT2 (.write 0x00 4 0xFFFFFFFF) 0b1000000000 (.wrControl 0xFFFFFFFF) := by decide
/-- V20 -/
theorem test_decode_rdBitcount : DecodesTo cfgT1 (.read 0x00 4) 0b0000000000 .rdBitcount := by decide
/-- V21 -/
theorem test_decode_wrDatain : DecodesTo cfgT1 (.write 0x00 4 3) 0b1000000000 (.wrDatain 3) := by decide
/-- V31, key `0 0 00000100` -/
theorem test_decode_rdStatus : DecodesTo cfgT1 (.read 0x04 4) 0b0000000100 .rdStatus := by decide
/-- V32 -/
theorem test_decode_wrStatus :
    DecodesTo cfgT1 (.write 0x04 4 0xABCD0123) 0b1000000100 (.wrStatus 0xABCD0123) := by decide
/-- V37, key `0 0 00011000` -/
theorem test_decode_rdSrcaddr : DecodesTo cfgT1 (.read 0x18 4) 0b0000011000 .rdSrcaddr := by decide
/-- V36 -/
theorem test_decode_wrSrcaddr :
    DecodesTo cfgT1 (.write 0x18 4 0xFFFFFFFF) 0b1000011000 (.wrSrcaddr 0xFFFFFFFF) := by decide
/-- V38, key `0 0 00101000` -/
theorem test_decode_rdLength : DecodesTo cfgT1 (.read 0x28 4) 0b0000101000 .rdLength := by decide
/-- V45 -/
theorem test_decode_wrLength : DecodesTo cfgT1 (.write 0x28 4 8) 0b1000101000 (.wrLength 8) := by decide
/-- V87, key `0 1 00000000` -/
theorem test_decode_rdReset : DecodesTo cfgT1 (.read 0x40 1) 0b0100000000 (.rdReset .one) := by decide
/-- V85, key `1 1 00000000` -/
theorem test_decode_wrReset :
    DecodesTo cfgT1 (.write 0x40 2 0x0100) 0b1100000000 (.wrReset (.half 0x0100)) := by decide
/-- V114: an undeclared offset forms the key 0x101 -/
theorem test_decode_rdReject : DecodesTo cfgT1 (.read 0x41 1) 0x101 (.rdReject 0x41 1) := by decide
/-- V89: key 0x301 -/
theorem test_decode_wrReject : DecodesTo cfgT1 (.write 0x41 1 0xFF) 0x301 (.wrReject 0x41 1 0xFF) := by decide
/-- V104, V105, V109, V110, V112: accesses that form no key -/
theorem test_decode_no_key :
    (cfgT1.formKey (.read 0x00 8), cfgT1.formKey (.write 0x28 2 8), cfgT1.formKey (.read 0x02 4),
      cfgT1.formKey (.read 0x2C 4), cfgT1.formKey (.read 0x00 64)) = (none, none, none, none, none) := by decide
/-- Section 2.6, T3: the windows move with the configuration. -/
theorem test_decode_relocated :
    (decode cfgT3 (.write 0x40000000 4 0xFF), decode cfgT3 (.read 0x40001000 1), decode cfgT3 (.read 0x40000040 4)) =
      (.ok (.wrDatain 0xFF), .ok (.rdReset .one), .ok (.rdReject 0x40000040 4)) := by decide

/-! ## One step of each operation -/

/-- V30 -/
theorem test_rdControl :
    reply1 (device cfgT2 0xFFFFFFFF 0 0 0 0 0 false) (.read 0x00 4) = some [.read .okay 4 0xFFFFFFFF] := by decide
/-- V29 -/
theorem test_wrControl : run1 s2 (.write 0x00 4 0xFFFFFFFF) =
    some { device cfgT2 0xFFFFFFFF 0 0 0 0 0 false with replies := [.write .okay] } := by decide
/-- V25 -/
theorem test_rdBitcount :
    reply1 (device cfgT1 0 0 0 0 0 0x0000000100000005 false) (.read 0x00 4) = some [.read .okay 4 5] := by decide
/-- V22 -/
theorem test_wrDatain : run1 (device cfgT1 0 0 0 0 3 2 false) (.write 0x00 4 0xFFFFFFFF) =
    some { device cfgT1 0 0 0 0 0xFFFFFFFF 34 false with replies := [.write .okay] } := by decide
/-- V26: the sum wraps -/
theorem test_wrDatain_wraps :
    (run1 (device cfgT1 0 0 0 0 0 0xFFFFFFFFFFFFFFF0 false) (.write 0x00 4 0xFFFFFFFF)).map State.bitCount =
      some 0x10 := by decide
/-- V33: hidden in IDLE mode -/
theorem test_rdStatus_idle :
    reply1 (device cfgT1 0 0xABCD0123 0 0 0 0 false) (.read 0x04 4) = some [.read .okay 4 2] := by decide
/-- V35 -/
theorem test_rdStatus_stored :
    reply1 (device cfgT2 0 0xABCD0123 0 0 0 0 false) (.read 0x04 4) = some [.read .okay 4 0xABCD0123] := by decide
/-- V32 -/
theorem test_wrStatus : run1 s1 (.write 0x04 4 0xABCD0123) =
    some { device cfgT1 0 0xABCD0123 0 0 0 0 false with replies := [.write .okay] } := by decide
/-- V37 -/
theorem test_rdSrcaddr :
    reply1 (device cfgT1 0 0 0xFFFFFFFF 0 0 0 false) (.read 0x18 4) = some [.read .okay 4 0xFFFFFFFF] := by decide
/-- V36 -/
theorem test_wrSrcaddr : run1 s1 (.write 0x18 4 0xFFFFFFFF) =
    some { device cfgT1 0 0 0xFFFFFFFF 0 0 0 false with replies := [.write .okay] } := by decide
/-- V39 -/
theorem test_rdLength :
    reply1 (device cfgT1 0 0 0x1000 8 0 5 true) (.read 0x28 4) = some [.read .okay 4 8] := by decide
/-- S5, V60: the source's scenario -/
theorem test_wrLength_accumulate :
    run1 { device cfgT1 0 0 0x1000 0 0 0 false with memory := [(0x1000, 3), (0x1004, 7)] } (.write 0x28 4 8) =
      some { device cfgT1 0 0 0x1000 8 0 5 true with
        memory := [(0x1000, 3), (0x1004, 7)], replies := [.write .okay] } := by decide
/-- V68: the relayed word comes from the block as first read -/
theorem test_wrLength_relay_snapshot :
    run1 { device cfgT2 0 0 0x17FC 0 0 0 false with
        memory := [(0x17FC, 0x11), (0x17FD, 0x22), (0x17FE, 0x33), (0x17FF, 0x44), (0x1800, 7)] } (.write 0x28 4 8) =
      some { device cfgT2 0 0 0x17FC 8 0 0 true with
        memory := [(0x17FC, 0x11), (0x17FD, 0x22), (0x17FE, 0x33), (0x17FF, 0x44), (0x1800, 7)]
        replies := [.write .okay] } := by decide
/-- V88 -/
theorem test_rdReset :
    (run1 s1 (.read 0x40 2)).map (fun t => (t.replies, t.log)) =
      some ([.read .okay 2 0], [⟨.resetMisuse, .read, 0x40, 2⟩]) := by decide
/-- V85 -/
theorem test_wrReset : run1 (device cfgT1 0 0x55 0x1000 8 0xF0 9 true) (.write 0x40 2 0x0100) =
    some { device cfgT1 0 0x55 0x1000 8 0 0 true with replies := [.write .okay] } := by decide
/-- V84 -/
theorem test_wrReset_zero : run1 (device cfgT1 0 0x55 0x1000 8 0xF0 9 true) (.write 0x40 1 0) =
    some { device cfgT1 0 0x55 0x1000 8 0xF0 9 true with replies := [.write .okay] } := by decide
/-- V113 -/
theorem test_rdReject : run1 s1 (.read 0x40 8) =
    some { s1 with replies := [.read .rejected 8 0], log := [⟨.outOfRangeAccess, .read, 0x40, 8⟩] } := by decide
/-- V105 -/
theorem test_wrReject : run1 s1 (.write 0x28 2 8) =
    some { s1 with replies := [.write .rejected], log := [⟨.outOfRangeAccess, .write, 0x28, 2⟩] } := by decide

/-! ## Length writes and transfers, the corners -/

/-- V44, V47, V52, V53: stored length and word count -/
theorem test_mask_and_count :
    [0x7, 0x7C000000, 0x03FFFFFF, 0xFFFFFFFF, 0xFC00000A].map (fun v => (maskLength v, wordCount (maskLength v))) =
      [(7, 1), (0, 0), (0x3FFFFFF, 16777215), (0x3FFFFFF, 16777215), (10, 2)] := by decide
/-- S9, V69 -/
theorem test_transfer_invalid_source :
    run1 (device cfgT1 0 0 0x3000 0 0xF0 4 false) (.write 0x28 4 8) =
      some { device cfgT1 0 0 0x3000 8 0xF0 4 true with replies := [.write .dmaFailed] } := by decide
/-- V75 -/
theorem test_transfer_zero_words :
    run1 (device cfgT1 0 0 0x3000 0 0xF0 4 false) (.write 0x28 4 3) =
      some { device cfgT1 0 0 0x3000 3 0xF0 4 true with replies := [.write .okay] } := by decide
/-- V72: the remainder bytes are never requested -/
theorem test_transfer_remainder_invalid :
    (run1 { device cfgT1 0 0 0x1FFC 0 0 0 false with memory := [(0x1FFC, 0xFF), (0x1FFF, 0xFF)] } (.write 0x28 4 7)).map
      (fun t => (t.bitCount, t.transferLength, t.replies)) = some (16, 7, [.write .okay]) := by decide
/-- V70: half of the block is invalid -/
theorem test_transfer_half_invalid :
    (run1 { device cfgT1 0 0 0x1FFC 0 0 1 false with memory := [(0x1FFC, 0xFF)] } (.write 0x28 4 8)).map
      (fun t => (t.bitCount, t.replies)) = some (1, [.write .dmaFailed]) := by decide
/-- V73, V74: the device's own windows are not memory, even where the platform's map covers them -/
theorem test_transfer_own_windows :
    (reply1 (device { cfgT1 with ram := [⟨0, 0x2000⟩] } 0 0 0x00 0 0 0 false) (.write 0x28 4 4),
      reply1 (device { cfgT1 with ram := [⟨0, 0x2000⟩] } 0 0 0x40 0 0 0 false) (.write 0x28 4 4)) =
      (some [.write .dmaFailed], some [.write .dmaFailed]) := by decide
/-- V76 -/
theorem test_relay_invalid_destination :
    run1 { device { cfgT2 with relayDest := 0x3000 } 0 0 0x1000 0 0 0 false with memory := [(0x1000, 3)] }
        (.write 0x28 4 4) =
      some { device { cfgT2 with relayDest := 0x3000 } 0 0 0x1000 4 0 0 true with
        memory := [(0x1000, 3)], replies := [.write .dmaFailed] } := by decide
/-- V67: the last word wins, and a zero byte leaves no entry -/
theorem test_relay_last_word_wins :
    (run1 { device cfgT2 0 0 0x1000 0 0 0 false with
        memory := [(0x1000, 3), (0x1004, 7), (0x1800, 0xAA), (0x1801, 0xAA), (0x1802, 0xAA), (0x1803, 0xAA)] }
        (.write 0x28 4 8)).map State.memory = some [(0x1000, 3), (0x1004, 7), (0x1800, 7)] := by decide
/-- V78: no wrap at `2^32` -/
theorem test_transfer_no_wrap :
    (run1 { device { cfgT1 with ram := [⟨0xFFFFF000, 0x2000⟩] } 0 0 0xFFFFFFFC 0 0 0 false with
        memory := [(0xFFFFFFFC, 1), (0x100000000, 3)] } (.write 0x28 4 8)).map State.bitCount = some 3 := by decide

/-! ## The accumulator and the word assembly -/

/-- V1 to V9, V13 to V15 -/
theorem test_popcount :
    [0, 1, 0x80000000, 3, 7, 0xF0, 0xFFFFFFFF, 0xAAAAAAAA, 0x55555555, 0xDEADBEEF, 0x12345678, 0xCAFEBABE].map
      popcount32 = [0, 1, 1, 2, 3, 4, 32, 16, 16, 24, 13, 22] := by decide
/-- V16 -/
theorem test_kernighan : [0xF0, 0x80000000, 0, 0xFFFFFFFF].map kernighan = [4, 1, 0, 32] := by decide
/-- V66: the byte at the lowest address is the least significant -/
theorem test_little_endian :
    (le32 0xEF 0xBE 0xAD 0xDE, bytesLE32 0xDEADBEEF) = (0xDEADBEEF, [0xEF, 0xBE, 0xAD, 0xDE]) := by decide

/-! ## The host's moves and the table words -/

/-- 92_eei_decisions.md D30 -/
theorem test_detached : step ({ s1 with attached := false }.queue [.read 0 4]) = .refused .detachedDevice := rfl
/-- 70_reset_and_hazards.md R152: a device created again is in the creation state -/
theorem test_recreated :
    nextState? (step { device cfgT1 1 2 3 4 5 6 true with attached := false, pending := [.create cfgT2] }) = some s2 := by
  decide
/-- A word of each key shape, placed where the next step takes it after reset -/
theorem test_withFetchWord :
    [0x000, 0x200, 0x004, 0x204, 0x018, 0x218, 0x028, 0x228, 0x100, 0x300, 0x008, 0x208].map
      (fun w => ((nextState? (step (State.reset.withFetchWord 16 w))).map (fun t => t.replies.map Reply.response))) =
      [some [.okay], some [.okay], some [.okay], some [.okay], some [.okay], some [.okay], some [.okay], some [.okay],
       some [.okay], some [.okay], some [.rejected], some [.rejected]] := by decide

/-! ## Witnesses: states and operands that meet the statements' hypotheses -/

/-- A state of T1 with a readable block of two words, and one of T2. -/
def w1 : State := { device cfgT1 0 0x55 0x1000 0 0xF0 9 false with memory := [(0x1000, 3), (0x1004, 7)] }
def w2 : State := { device cfgT2 1 0x55 0x1000 0 0 0 false with memory := [(0x1000, 3), (0x1004, 7), (0x1801, 0xAA)] }
/-- T2 with `RELAY_DEST` outside memory. -/
def w3 : State := { w2 with cfg := { cfgT2 with relayDest := 0x3000 } }
/-- T2 with `RELAY_DEST` in the reset window. -/
def w4 : State := { w2 with cfg := { cfgT2 with relayDest := 0x3D } }

theorem witness_inv : Inv w1 ∧ Inv w2 ∧ Inv w3 := by decide
theorem witness_completes (i : Instr) (s : State) (h : (nextState? (exec i s)).isSome = true) :
    ∃ t, exec i s = .next t := by
  cases he : exec i s with
  | next t => exact ⟨t, rfl⟩
  | fault r => cases r
  | refused r => simp [he, nextState?] at h

theorem witness_CreationAndSoftResetValues : (ResetData.byte 0x80).toBus ≠ 0 := by decide
theorem witness_CreateDeviceZeroesEveryRegister :
    { w1 with attached := false, pending := [.create cfgT2] }.attached = false ∧ cfgT2.Wf ∧
      ¬ { cfgT1 with paWidth := 32 }.Wf := by decide
theorem witness_DetachmentEndsTheDevice :
    w1.attached = true ∧ { w1 with pending := [.detach] }.pending = .detach :: [] ∧
      { w1 with attached := false, pending := [.issue (.read 0 4)] }.attached = false ∧
      { w2 with attached := false, pending := [.create cfgT1] }.pending = .create cfgT1 :: [] ∧ cfgT1.Wf := by decide
theorem witness_HardwareResetIsCreation :
    { w1 with pending := [.hardwareReset] }.attached = true ∧
      { w1 with pending := [.hardwareReset] }.pending = .hardwareReset :: [] := by decide
theorem witness_HostStoreChangesOneByte :
    w1.memory.Wf ∧ w1.cfg.isValid 0x1FFF = true ∧ w1.cfg.isValid 0x1000 = true ∧
      { w1 with pending := [.store 0x1FFF 1] }.pending = .store 0x1FFF 1 :: [] := by decide
theorem witness_StepKeepsTheInvariant :
    Inv (w1.queue [.write 0x28 4 8]) ∧ (nextState? (step (w1.queue [.write 0x28 4 8]))).isSome = true := by decide
theorem witness_StepRunsTheDecodedOperation :
    (w1.queue [.write 0x28 4 8]).attached = true ∧ (w1.queue [.write 0x28 4 8]).pending = .issue (.write 0x28 4 8) :: [] ∧
      decode w1.cfg (.write 0x28 4 8) = .ok (.wrLength 8) := by decide
theorem witness_StepCompletesExactlyWhenAllowed :
    w1.pending = [] ∧ (w1.queue [.read 0x03 1]).pending = .issue (.read 0x03 1) :: [] := by decide
theorem witness_StepTakesOneMoveInOrder :
    (nextState? (step { w1 with attached := false, pending := [.create cfgT2, .hardwareReset] })).map
      (fun t => (t.cfg, t.pending)) = some (cfgT2, [.hardwareReset]) ∧ cfgT2 ≠ w1.cfg := by decide
theorem witness_DecodeOfEncodeIsTheOperation :
    cfgT1.Wf ∧ (Instr.wrReset (.byte 0xFF)).Wf cfgT1 = true ∧ (Instr.rdReject (2 ^ 64 - 1) 64).Wf cfgT1 = true ∧
      (Instr.wrDatain 0xFFFFFFFF).Wf cfgT1 = true ∧ cfgT2.Wf ∧ Instr.rdControl.Wf cfgT2 = true := by decide
theorem witness_EveryTransactionDecodesAndEncodesBack :
    cfgT1.Wf ∧ (Transaction.write 0x40 1 0xFF).Wf cfgT1 ∧ (Transaction.read (2 ^ 64 - 1) 64).Wf cfgT1 := by decide
theorem witness_MalformedInputsRejectedByName :
    2 ^ cfgT1.paWidth ≤ 2 ^ 64 ∧ 0x28 < 2 ^ cfgT1.paWidth ∧ 2 ^ (8 * 1) ≤ 0x100 := by decide
theorem witness_DecodeFollowsTheOperationMap :
    cfgT1.Wf ∧ cfgT1.mainSpan ≤ 256 ∧ cfgT1.resetSpan ≤ 256 ∧ decode cfgT1 (.read 0x08 4) = .ok (.rdReject 0x08 4) := by
  decide
theorem witness_AcceptedAccessesAreExactlyTheDeclared :
    cfgT1.Wf ∧ (Transaction.read 0x29 4).Wf cfgT1 ∧ (Transaction.write 0x43 1 1).Wf cfgT1 := by decide
theorem witness_MisalignedAccessesAreRejected :
    cfgT1.Wf ∧ 0x02 % 4 ≠ 0 ∧ (Transaction.read 0x02 4).Wf cfgT1 ∧ (Transaction.write 0x41 2 0xFFFF).Wf cfgT1 ∧
      cfgT1.selectWindow 0x42 = some (.reset, 2) ∧ Window.reset.AcceptsWidth 2 := by decide
theorem witness_ControlMode :
    w2.cfg.reg0Mode = .control ∧ w1.cfg.reg0Mode ≠ .control ∧ cfgT2.Wf ∧
      (nextState? (exec (.wrControl 5) w2)).isSome = true ∧ (nextState? (exec (.wrDatain 5) w1)).isSome = true ∧
      (∀ v, Instr.wrDatain 5 ≠ .wrControl v) := by
  exact ⟨by decide, by decide, by decide, by decide, by decide, fun _ h => Instr.noConfusion h⟩
theorem witness_DataInMode :
    w1.cfg.reg0Mode = .dataIn ∧ w2.cfg.reg0Mode ≠ .dataIn ∧ cfgT1.Wf ∧ (ResetData.word 0x80000000).toBus ≠ 0 ∧
      (nextState? (exec (.wrReset (.word 0x80000000)) w1)).isSome = true := by decide
theorem witness_ReadStatusByConfiguration :
    w1.cfg.statusMode = .idle ∧ w2.cfg.statusMode = .stored ∧ cfgT1.Wf ∧
      (nextState? (exec (.wrStatus 1) w1)).isSome = true ∧ (nextState? (exec (.wrLength 8) w2)).isSome = true := by decide
theorem witness_WriteStatusStoresInEveryConfiguration :
    cfgT1.Wf ∧ cfgT2.Wf ∧ cfgT3.Wf ∧ w1.cfg.statusMode = .idle ∧
      (nextState? (exec (.wrStatus 7) w1)).isSome = true := by decide
theorem witness_WriteSourceAddressStoresAnyValue :
    (nextState? (exec (.wrSrcaddr 0x1FFF) w1)).isSome = true ∧ 3 < 4 * wordsRequested 7 ∧
      w1.cfg.isValid ((0x1FFF : Word).toNat + 3) = false ∧ wordsRequested 0xFC000003 = 0 := by decide
theorem witness_SourceAddressAndLength :
    Inv w1 ∧ cfgT1.Wf ∧ (nextState? (exec (.wrSrcaddr 1) w1)).isSome = true ∧
      (nextState? (exec (.wrLength 0xFC00000A) w1)).isSome = true := by decide
theorem witness_WriteResetClearsScratchAndCount :
    (ResetData.half 0x0100).toBus ≠ 0 ∧ (ResetData.half 0).toBus = 0 ∧ cfgT1.Wf ∧
      w1.bitCount.toNat + 536870880 < 2 ^ 64 ∧
      (nextState? (exec (.wrReset (.byte 1)) w1)).map (fun t => t.bitCount.toNat) = some 0 ∧ 0 < w1.bitCount.toNat := by
  decide
theorem witness_RegisterFileContract :
    decode w1.cfg (.read 0x40 1) = .ok (.rdReset .one) ∧ (Instr.rdReset .one).op ≠ .wrLength ∧
      (nextState? (exec (.rdReset .one) w1)).isSome = true ∧ decode w1.cfg (.read 0x04 4) = .ok .rdStatus ∧
      (nextState? (exec .rdStatus w1)).isSome = true := by decide
theorem witness_RejectedAccesses :
    (Transaction.read 0x2C 4).Wf cfgT1 ∧ cfgT1.acceptedRegister 0x2C 4 = none ∧ (Transaction.write 0x28 8 1).Wf cfgT1 ∧
      cfgT1.acceptedRegister 0x28 8 = none := by decide
theorem witness_RejectedSequencesChangeNothing :
    w1.attached = true ∧ ∀ tx ∈ [Transaction.read 0x08 4, .write 0x28 2 8],
      tx.Wf w1.cfg ∧ w1.cfg.acceptedRegister tx.addr tx.width = none := by decide
theorem witness_OnlyWholeWordsAreTransferred :
    (nextState? (exec (.wrLength 7) w1)).isSome = true ∧
      (nextState? (exec (.wrLength (7 &&& 0xFFFFFFFC)) w1)).isSome = true := by decide
theorem witness_ZeroWordTransferTouchesNoMemory : (0x7C000003 : Word).toNat % 2 ^ 26 < 4 := by decide
theorem witness_BlockReadIsAllOrNothing :
    w1.cfg.isValid ({ w1 with sourceAddress := 0x1FFC }.sourceAddress.toNat + 4) = false ∧
      4 < 4 * wordsRequested 8 ∧ w1.BlockReadable (wordsRequested 8) ∧ w1.cfg.sinkMode = .accumulate ∧
      w2.BlockReadable (wordsRequested 8) ∧ w2.RelayWritable := by decide
theorem witness_AccumulateTransferCountsTheBlock :
    w1.cfg.sinkMode = .accumulate ∧ w1.BlockReadable (wordsRequested 0xFC00000A) ∧ w1.BlockReadable (wordsRequested 3) := by
  decide
theorem witness_RelayTransferLeavesTheLastWord :
    w2.memory.Wf ∧ w2.cfg.sinkMode = .relay ∧ 0 < wordsRequested 8 ∧ w2.BlockReadable (wordsRequested 8) ∧
      w2.RelayWritable ∧ w3.cfg.sinkMode = .relay ∧ w3.BlockReadable (wordsRequested 8) ∧
      w3.cfg.isValid (w3.cfg.relayDest + 0) = false := by decide
theorem witness_FailedTransferLeavesOnlyTheLatch :
    (nextState? (exec (.wrLength 8) w3)).map State.replies = some (w3.replies ++ [.write .dmaFailed]) ∧
      (nextState? (exec (.wrLength 8) { w1 with sourceAddress := 0 })).map State.replies =
        some [.write .dmaFailed] := by decide
theorem witness_LengthWriteFrame :
    (nextState? (exec (.wrLength 8) w1)).isSome = true ∧ w1.cfg.sinkMode = .accumulate ∧
      (nextState? (exec (.wrLength 8) w2)).isSome = true ∧ w2.cfg.sinkMode = .relay := by decide
theorem witness_EngineStateMachineRefinesTheLengthWrite :
    (nextState? (exec (.wrLength 8) w1)).isSome = true ∧ wordsRequested 8 + 3 ≤ 5 ∧
      nextState? (exec (.wrLength 8) w1) = some (engineRun 5 (.latch 8, w1)).2 := by decide
theorem witness_MemReadIsAllOrNothing :
    (∀ j, j < 4 → w1.cfg.isValid (0x1FFC + j) = true) ∧ w1.cfg.isValid (0x1FFD + 3) = false ∧
      2 ^ cfgT1.paWidth ≤ 2 ^ 64 := by decide
theorem witness_MemWriteIsAllOrNothing :
    w2.memory.Wf ∧ (∀ j, j < [(1 : Byte), 2, 3, 4].length → w2.cfg.isValid (0x1800 + j) = true) ∧
      w2.cfg.isValid (0x1FFE + 2) = false := by decide
theorem witness_OwnWindowsAreNotMemory :
    cfgT1.deviceBase ≤ 0x2B ∧ 0x2B < cfgT1.deviceBase + cfgT1.mainSpan ∧
      cfgT1.deviceBase + cfgT1.resetOffset ≤ 0x43 ∧ 0x43 < cfgT1.deviceBase + cfgT1.resetOffset + cfgT1.resetSpan ∧
      cfgT1.inOwnWindow ((0x3D : Word).toNat + 3) = true ∧ 3 < 4 * wordsRequested 4 ∧ w4.cfg.sinkMode = .relay ∧
      w4.cfg.inOwnWindow (w4.cfg.relayDest + 3) = true := by decide
theorem witness_DataInWritesAccumulate : w1.attached = true ∧ w1.cfg.Wf ∧ w1.cfg.reg0Mode = .dataIn := by decide
theorem witness_PseudoOperationsAreTheirExpansions :
    cfgT1.Wf ∧ (PseudoOp.popcnt 3).Wf cfgT1 = true ∧ PseudoOp.count.Wf cfgT1 = true ∧
      (PseudoOp.dma 0x1000 8).Wf cfgT2 = true ∧ PseudoOp.softReset.Wf cfgT2 = true ∧ cfgT2.reg0Mode = .control := by decide
theorem witness_MeasuringABlockReadsItsBitCount :
    w1.attached = true ∧ w1.cfg.Wf ∧ w1.cfg.reg0Mode = .dataIn ∧ w1.cfg.sinkMode = .accumulate ∧
      ({ w1 with sourceAddress := 0x1004 } : State).BlockReadable (wordsRequested 7) ∧
      ({ w1 with sourceAddress := 0x1004 } : State).blockBits (wordsRequested 7) = 3 := by decide
theorem witness_BitCountNeverDecreasesBetweenResets :
    w1.bitCount.toNat + 536870880 < 2 ^ 64 ∧ (nextState? (exec (.wrDatain 7) w1)).isSome = true ∧
      (ResetData.byte 0).toBus = 0 ∧ (nextState? (exec (.wrReset (.byte 0)) w1)).isSome = true := by decide
theorem witness_FieldsAreWrittenOnlyByTheirOperations :
    (nextState? (exec (.wrLength 8) w2)).map (fun t => (t.memory ≠ w2.memory : Bool)) = some true ∧
      (nextState? (exec (.wrLength 8) w1)).map (fun t => (t.bitCount ≠ w1.bitCount : Bool)) = some true ∧
      (nextState? (exec (.wrControl 9) w2)).map (fun t => (t.controlReg ≠ w2.controlReg : Bool)) = some true := by decide
theorem witness_RepliesAndLog :
    (nextState? (exec (.rdReject 0x08 4) w1)).isSome = true ∧ (nextState? (exec (.wrReject 0x28 8 1) w1)).isSome = true ∧
      (nextState? (exec (.rdReset .two) w1)).isSome = true ∧ (nextState? (exec .rdSrcaddr w1)).isSome = true := by decide
theorem witness_OutputsAreNeverRead : (nextState? (step (w1.queue [.read 0x00 4]))).isSome = true := by decide
theorem witness_HiddenStateNeverReachesTheHost :
    SameToHost (w1.queue [.read 0x00 4])
      ({ w1 with writeScratch := 1, startFlag := true, bitCount := 0x100000009, statusReg := 7 }.queue [.read 0x00 4]) ∧
      (nextState? (step (w1.queue [.read 0x00 4]))).isSome = true :=
  ⟨by constructor <;> first | rfl | decide, by decide⟩
theorem witness_ReadsArePureAndRepeatableOperationsIdempotent :
    (encode w1.cfg .rdBitcount).direction = .read ∧ (nextState? (exec .rdBitcount w1)).isSome = true ∧
      (nextState? (exec (.wrStatus 3) w1)).isSome = true ∧
      ((nextState? (exec (.wrStatus 3) w1)).bind (fun t => nextState? (exec (.wrStatus 3) t))).isSome = true := by decide

end Sys2Proof.Tests
end

section
/-! PROOF. The family 10_state.md: the values Device State holds after creation and after a soft reset. -/

namespace Sys2Proof.Machine

/-- A non-zero reset write, at any width, soft-resets and answers OKAY (40_register_file.md R81). -/
theorem exec_wrReset_of_ne_zero {d : ResetData} (hd : d.toBus ≠ 0) (s : State) :
    exec (.wrReset d) s = .next (s.softReset.answerWrite .okay) := by
  have hreq : resetRequested d = true := (resetRequested_iff d).2 hd
  simp only [exec, execWrReset, hreq, if_true]

/-- Settles O1: creation writes its values out field by field, and the next state of a non-zero reset write is the
soft-reset state with its answer, whose fields the setter lemmas read. -/
theorem creationAndSoftResetValues : Obligations.CreationAndSoftResetValues := by
  unfold Obligations.CreationAndSoftResetValues
  refine ⟨?creation, ?reset, ?softReset⟩
  case creation => simp [State.creation]
  case reset => rfl
  case softReset =>
    intro s d hd
    refine ⟨s.softReset.answerWrite .okay, exec_wrReset_of_ne_zero hd s, ?_⟩
    simp [State.softReset, State.answerWrite]

end Sys2Proof.Machine
end

section
/-! PROOF. The family 20_memory.md, R42: an access is aligned exactly when its offset is, and a misaligned one reaches no
register. -/

namespace Sys2Proof

/-- Both windows begin at a multiple of 4 (00_scope.md R8). -/
theorem windowBase_mod_four {c : Cfg} (hc : c.Wf) (r : Window) : c.windowBase r % 4 = 0 := by
  obtain ⟨hmain, hreset, -⟩ := hc
  cases r with
  | main => exact hmain
  | reset => exact hreset

/-- Every width a window accepts divides 4 (20_memory.md R34). -/
theorem dvd_four_of_acceptsWidth {r : Window} {w : Nat} (h : r.AcceptsWidth w) : w ∣ 4 := by
  rcases (acceptsWidth_iff r w).1 h with ⟨-, rfl⟩ | ⟨-, rfl | rfl | rfl⟩ <;> decide

/-- At an accepted width the window's base drops out of the alignment of an address (20_memory.md R42). -/
theorem addr_aligned_iff_offset_aligned {c : Cfg} (hc : c.Wf) {a w off : Nat} {r : Window}
    (hs : c.selectWindow a = some (r, off)) (hw : r.AcceptsWidth w) : a % w = 0 ↔ off % w = 0 := by
  have hbase : w ∣ c.windowBase r :=
    (dvd_four_of_acceptsWidth hw).trans (Nat.dvd_of_mod_eq_zero (windowBase_mod_four hc r))
  rw [selectWindow_eq_some hs, ← Nat.dvd_iff_mod_eq_zero, ← Nat.dvd_iff_mod_eq_zero, Nat.dvd_add_right hbase]

/-- A misaligned access has no place in either window: selected and of an accepted width, it fails R54. -/
theorem placeOf_eq_none_of_misaligned {c : Cfg} (hc : c.Wf) {a w : Nat} (h : a % w ≠ 0) : c.placeOf a w = none := by
  refine Option.eq_none_iff_forall_ne_some.2 ?_
  rintro ⟨r, off⟩ hp
  obtain ⟨hs, hw, hoff⟩ := placeOf_eq_some.1 hp
  exact h ((addr_aligned_iff_offset_aligned hc hs hw).2 hoff)

theorem acceptedRegister_eq_none_of_misaligned {c : Cfg} (hc : c.Wf) {a w : Nat} (h : a % w ≠ 0) :
    c.acceptedRegister a w = none := by
  rw [Cfg.acceptedRegister, placeOf_eq_none_of_misaligned hc h]

/-- A read that reaches no register is rejected with the whole access (43_bus_dispatcher.md R122). -/
theorem dispatchRead_of_unaccepted {c : Cfg} {a w : Nat} (h : c.acceptedRegister a w = none) :
    c.dispatchRead a w = .rdReject a w := by
  rw [Cfg.dispatchRead, h]

/-- A write that reaches no register is rejected with the whole access (43_bus_dispatcher.md R123). -/
theorem dispatchWrite_of_unaccepted {c : Cfg} {a w : Nat} (v : BusValue) (h : c.acceptedRegister a w = none) :
    c.dispatchWrite a w v = .wrReject a w v := by
  rw [Cfg.dispatchWrite, h]

/-- Settles O16: a misaligned access reaches no register, so it is dispatched to the REJECT operation of its direction;
the bases are multiples of 4 and every accepted width divides 4. -/
theorem misalignedAccessesAreRejected : Obligations.MisalignedAccessesAreRejected := by
  unfold Obligations.MisalignedAccessesAreRejected
  refine ⟨?read, ?write, ?alignment⟩
  case read =>
    intro c a w hc hmis hwf
    rw [decode_read hwf, dispatchRead_of_unaccepted (acceptedRegister_eq_none_of_misaligned hc hmis)]
  case write =>
    intro c a w v hc hmis hwf
    rw [decode_write hwf, dispatchWrite_of_unaccepted v (acceptedRegister_eq_none_of_misaligned hc hmis)]
  case alignment =>
    intro c a w off r hc hs hw
    exact addr_aligned_iff_offset_aligned hc hs hw

end Sys2Proof
end

section
/-! PROOF. The family 20_memory.md, R38: the device's own windows are no memory, so a transfer that touches one fails. -/

namespace Sys2Proof

theorem inOwnWindow_iff {c : Cfg} {a : Nat} :
    c.inOwnWindow a = true ↔
      (c.deviceBase ≤ a ∧ a < c.deviceBase + c.mainSpan) ∨ (c.resetBase ≤ a ∧ a < c.resetBase + c.resetSpan) := by
  simp [Cfg.inOwnWindow]

/-- Whatever the platform's map is, a byte of an own window is not valid (20_memory.md R38). -/
theorem isValid_eq_false_of_inOwnWindow {c : Cfg} {a : Nat} (h : c.inOwnWindow a = true) : c.isValid a = false := by
  simp [Cfg.isValid, h]

end Sys2Proof

namespace Sys2Proof.Machine

theorem not_blockReadable_of_inOwnWindow {s : State} {n j : Nat} (hj : j < 4 * n)
    (h : s.cfg.inOwnWindow (s.sourceAddress.toNat + j) = true) : ¬ s.BlockReadable n :=
  fun hr => Bool.false_ne_true ((isValid_eq_false_of_inOwnWindow h).symm.trans (hr j hj))

theorem not_relayWritable_of_inOwnWindow {s : State} {j : Nat} (hj : j < 4)
    (h : s.cfg.inOwnWindow (s.cfg.relayDest + j) = true) : ¬ s.RelayWritable :=
  fun hd => Bool.false_ne_true ((isValid_eq_false_of_inOwnWindow h).symm.trans (hd j hj))

/-- A transfer of whole words that cannot read its block, or cannot write its relay destination, changes only what the
latch changes and answers DMA_FAILED (42_dma.md R112). -/
theorem exec_wrLength_dmaFailed {s : State} {v : Word} (hn : 0 < wordsRequested v)
    (hf : ¬ s.BlockReadable (wordsRequested v) ∨ (s.cfg.sinkMode = .relay ∧ ¬ s.RelayWritable)) :
    exec (.wrLength v) s = .next ((s.latchLength v).answerWrite .dmaFailed) := by
  rw [exec_wrLength]
  congr 1
  rcases exec_wrLength_cases (exec_wrLength v s) with
    ⟨h0, -⟩ | ⟨-, -, ht⟩ | ⟨-, hr, hs, -⟩ | ⟨-, -, -, -, ht⟩ | ⟨-, hr, -, hd, -⟩
  · omega
  · exact ht
  · rcases hf with hnr | ⟨hrelay, -⟩
    · exact absurd hr hnr
    · exact absurd (hs.symm.trans hrelay) SinkMode.noConfusion
  · exact ht
  · rcases hf with hnr | ⟨-, hnd⟩
    · exact absurd hr hnr
    · exact absurd hd hnd

/-- Settles O46: an own window holds no valid byte, so a source block or a relay destination that touches one makes the
transfer fail. -/
theorem ownWindowsAreNotMemory : Obligations.OwnWindowsAreNotMemory := by
  unfold Obligations.OwnWindowsAreNotMemory
  refine ⟨?mainWindow, ?resetWindow, ?source, ?relayDest⟩
  case mainWindow =>
    intro c a hlo hhi
    exact isValid_eq_false_of_inOwnWindow (inOwnWindow_iff.2 (.inl ⟨hlo, hhi⟩))
  case resetWindow =>
    intro c a hlo hhi
    exact isValid_eq_false_of_inOwnWindow (inOwnWindow_iff.2 (.inr ⟨hlo, hhi⟩))
  case source =>
    intro s v j hj hown
    exact exec_wrLength_dmaFailed (by omega) (.inl (not_blockReadable_of_inOwnWindow hj hown))
  case relayDest =>
    intro s v j hrelay hn hj hown
    exact exec_wrLength_dmaFailed hn (.inr ⟨hrelay, not_relayWritable_of_inOwnWindow hj hown⟩)

end Sys2Proof.Machine
end

section
/-! PROOF. The family 30_encoding.md, R65: a pseudo-operation's expansion is the encoding of the operations it names, and
each of these decodes to the operation it came from. -/

namespace Sys2Proof

open Laws.EncodeFormat (main_read main_write)

/-- The declared offsets of the main window are aligned and lie below its least span (20_memory.md R32). -/
theorem declaredRegister_main_bounds {off : Nat} {r : Register} (h : Window.main.declaredRegister off = some r) :
    off < 0x2C ∧ off % 4 = 0 := by
  simp only [Window.declaredRegister] at h
  split_ifs at h <;> subst off <;> decide

/-- A 4-byte access to a declared offset of the main window reaches its register (30_encoding.md R52 to R55). -/
theorem acceptedRegister_of_declared {c : Cfg} (hc : c.Wf) {off : Nat} {r : Register}
    (h : Window.main.declaredRegister off = some r) : c.acceptedRegister (c.deviceBase + off) 4 = some r := by
  obtain ⟨hoff, haligned⟩ := declaredRegister_main_bounds h
  obtain ⟨-, -, -, -, -, -, hspan, -⟩ := hc
  rw [acceptedRegister_main (by omega) haligned, h]

theorem decode_encode_rdBitcount {c : Cfg} (hc : c.Wf) (hm : c.reg0Mode = .dataIn) :
    decode c (encode c .rdBitcount) = .ok .rdBitcount := by
  have hreg := acceptedRegister_of_declared hc (off := offReg0) rfl
  rw [encode, decode_read (main_read hc (by decide)), Cfg.dispatchRead, hreg]
  simp only [hm]

theorem decode_encode_wrDatain {c : Cfg} (hc : c.Wf) (hm : c.reg0Mode = .dataIn) (v : Word) :
    decode c (encode c (.wrDatain v)) = .ok (.wrDatain v) := by
  have hreg := acceptedRegister_of_declared hc (off := offReg0) rfl
  rw [encode, decode_write (main_write hc (by decide) v), Cfg.dispatchWrite, hreg]
  simp only [hm, wordOfBus_busOfWord]

theorem decode_encode_wrSrcaddr {c : Cfg} (hc : c.Wf) (v : Word) :
    decode c (encode c (.wrSrcaddr v)) = .ok (.wrSrcaddr v) := by
  have hreg := acceptedRegister_of_declared hc (off := offSrcaddr) rfl
  rw [encode, decode_write (main_write hc (by decide) v), Cfg.dispatchWrite, hreg]
  simp only [wordOfBus_busOfWord]

theorem decode_encode_wrLength {c : Cfg} (hc : c.Wf) (v : Word) :
    decode c (encode c (.wrLength v)) = .ok (.wrLength v) := by
  have hreg := acceptedRegister_of_declared hc (off := offLength) rfl
  rw [encode, decode_write (main_write hc (by decide) v), Cfg.dispatchWrite, hreg]
  simp only [wordOfBus_busOfWord]

/-- Reset data has one of the widths of 20_memory.md R34. -/
theorem resetData_bytes_cases (d : ResetData) : d.bytes = 1 ∨ d.bytes = 2 ∨ d.bytes = 4 := by
  cases d with
  | byte => exact .inl rfl
  | half => exact .inr (.inl rfl)
  | word => exact .inr (.inr rfl)

theorem decode_encode_wrReset {c : Cfg} (hc : c.Wf) (d : ResetData) :
    decode c (encode c (.wrReset d)) = .ok (.wrReset d) := by
  have hreg := acceptedRegister_reset hc (resetData_bytes_cases d)
  have hformat := Laws.EncodeFormat.wrReset d c hc rfl
  rw [encode] at hformat ⊢
  rw [decode_write hformat, Cfg.dispatchWrite, hreg]
  simp only [resetData_ofBus_toBus]

/-- `POPCNT` and `COUNT` share one condition: the data-in mode (30_encoding.md R65). -/
theorem popcnt_wf_iff {c : Cfg} {v : Word} : (PseudoOp.popcnt v).Wf c = true ↔ c.reg0Mode = .dataIn :=
  beq_iff_eq

theorem count_wf_iff {c : Cfg} : PseudoOp.count.Wf c = true ↔ c.reg0Mode = .dataIn :=
  beq_iff_eq

/-! The expansions are encodings (30_encoding.md R65). -/

theorem expand_popcnt (c : Cfg) (v : Word) : (PseudoOp.popcnt v).expand c = [encode c (.wrDatain v)] := rfl

theorem expand_count (c : Cfg) : PseudoOp.count.expand c = [encode c .rdBitcount] := rfl

theorem expand_dma (c : Cfg) (src len : Word) :
    (PseudoOp.dma src len).expand c = [encode c (.wrSrcaddr src), encode c (.wrLength len)] := rfl

theorem expand_softReset (c : Cfg) : PseudoOp.softReset.expand c = [encode c (.wrReset (.word 1))] := rfl

/-- Settles O17: each expansion is the encoding of its operations, and these decode to themselves. -/
theorem pseudoOperationsAreTheirExpansions : Obligations.PseudoOperationsAreTheirExpansions := by
  unfold Obligations.PseudoOperationsAreTheirExpansions
  intro c hc
  refine ⟨?popcnt, ?count, ?dma, ?softReset, ?controlMode⟩
  case popcnt =>
    intro v hv
    rw [expand_popcnt, List.map_singleton, decode_encode_wrDatain hc (popcnt_wf_iff.1 hv)]
  case count =>
    intro hv
    rw [expand_count, List.map_singleton, decode_encode_rdBitcount hc (count_wf_iff.1 hv)]
  case dma =>
    intro src len _
    rw [expand_dma, List.map_cons, List.map_singleton, decode_encode_wrSrcaddr hc, decode_encode_wrLength hc]
  case softReset =>
    intro _
    rw [expand_softReset, List.map_singleton, decode_encode_wrReset hc]
  case controlMode =>
    intro hm
    simp [PseudoOp.Wf, hm]

end Sys2Proof
end

section
/-! PROOF. The family 40_register_file.md, the `Transaction` lines of R74 to R81: the access to each register decodes to
its operation and forms the key of its row. -/

namespace Sys2Proof

open Laws.EncodeFormat (main_read main_write)
open Machine (DecodesTo)

/-- A 4-byte access to a declared offset of the main window forms the key of that offset (30_encoding.md R56). -/
theorem formKey_of_declared {c : Cfg} (hc : c.Wf) {off : Nat} {r : Register}
    (h : Window.main.declaredRegister off = some r) {tx : Transaction} (ha : tx.addr = c.deviceBase + off)
    (hw : tx.width = 4) : c.formKey tx = some (keyOf tx.direction .main off) := by
  obtain ⟨hoff, haligned⟩ := declaredRegister_main_bounds h
  obtain ⟨-, -, -, -, -, -, hspan, -⟩ := hc
  exact formKey_main (by omega) haligned ha hw

/-- What a read of a declared register of the main window decodes to is decided by the register alone. -/
theorem decodesTo_main_read {c : Cfg} (hc : c.Wf) {off : Nat} {r : Register} {i : Instr}
    (h : Window.main.declaredRegister off = some r)
    (hi : c.acceptedRegister (c.deviceBase + off) 4 = some r → c.dispatchRead (c.deviceBase + off) 4 = i) :
    DecodesTo c (.read (c.deviceBase + off) 4) (keyOf .read .main off) i := by
  obtain ⟨hoff, -⟩ := declaredRegister_main_bounds h
  refine ⟨?_, formKey_of_declared hc h rfl rfl⟩
  rw [decode_read (main_read hc hoff), hi (acceptedRegister_of_declared hc h)]

/-- What a write of a declared register of the main window decodes to is decided by the register and the value. -/
theorem decodesTo_main_write {c : Cfg} (hc : c.Wf) {off : Nat} {r : Register} {v : Word} {i : Instr}
    (h : Window.main.declaredRegister off = some r)
    (hi : c.acceptedRegister (c.deviceBase + off) 4 = some r →
      c.dispatchWrite (c.deviceBase + off) 4 (busOfWord v) = i) :
    DecodesTo c (.write (c.deviceBase + off) 4 (busOfWord v)) (keyOf .write .main off) i := by
  obtain ⟨hoff, -⟩ := declaredRegister_main_bounds h
  refine ⟨?_, formKey_of_declared hc h rfl rfl⟩
  rw [decode_write (main_write hc hoff v), hi (acceptedRegister_of_declared hc h)]

theorem decodesTo_rdStatus {c : Cfg} (hc : c.Wf) : DecodesTo c (encode c .rdStatus) 0x004 .rdStatus :=
  decodesTo_main_read hc rfl fun h => by rw [Cfg.dispatchRead, h]

theorem decodesTo_wrStatus {c : Cfg} (hc : c.Wf) (v : Word) :
    DecodesTo c (encode c (.wrStatus v)) 0x204 (.wrStatus v) :=
  decodesTo_main_write hc rfl fun h => by rw [Cfg.dispatchWrite, h, wordOfBus_busOfWord]

theorem decodesTo_rdSrcaddr {c : Cfg} (hc : c.Wf) : DecodesTo c (encode c .rdSrcaddr) 0x018 .rdSrcaddr :=
  decodesTo_main_read hc rfl fun h => by rw [Cfg.dispatchRead, h]

theorem decodesTo_wrSrcaddr {c : Cfg} (hc : c.Wf) (v : Word) :
    DecodesTo c (encode c (.wrSrcaddr v)) 0x218 (.wrSrcaddr v) :=
  decodesTo_main_write hc rfl fun h => by rw [Cfg.dispatchWrite, h, wordOfBus_busOfWord]

theorem decodesTo_rdLength {c : Cfg} (hc : c.Wf) : DecodesTo c (encode c .rdLength) 0x028 .rdLength :=
  decodesTo_main_read hc rfl fun h => by rw [Cfg.dispatchRead, h]

/-- A reset read has one of the widths of 20_memory.md R34. -/
theorem resetWidth_bytes_cases (w : ResetWidth) : w.bytes = 1 ∨ w.bytes = 2 ∨ w.bytes = 4 := by
  cases w with
  | one => exact .inl rfl
  | two => exact .inr (.inl rfl)
  | four => exact .inr (.inr rfl)

@[simp] theorem resetWidth_ofBytes_bytes (w : ResetWidth) : ResetWidth.ofBytes w.bytes = w := by
  cases w <;> rfl

theorem decodesTo_rdReset {c : Cfg} (hc : c.Wf) (w : ResetWidth) :
    DecodesTo c (encode c (.rdReset w)) 0x100 (.rdReset w) := by
  have hreg := acceptedRegister_reset hc (resetWidth_bytes_cases w)
  have hformat := Laws.EncodeFormat.rdReset w c hc rfl
  have hkey : c.formKey (encode c (.rdReset w)) = some (keyOf .read .reset offReset) :=
    formKey_reset (tx := .read _ w.bytes) hc rfl (resetWidth_bytes_cases w)
  refine ⟨?_, hkey⟩
  rw [encode] at hformat ⊢
  rw [decode_read hformat, Cfg.dispatchRead, hreg]
  simp only [resetWidth_ofBytes_bytes]

theorem decodesTo_wrReset {c : Cfg} (hc : c.Wf) (d : ResetData) :
    DecodesTo c (encode c (.wrReset d)) 0x300 (.wrReset d) := by
  have hkey : c.formKey (encode c (.wrReset d)) = some (keyOf .write .reset offReset) :=
    formKey_reset (tx := .write _ d.bytes d.toBus) hc rfl (resetData_bytes_cases d)
  exact ⟨decode_encode_wrReset hc d, hkey⟩

end Sys2Proof
end

section
/-! PROOF. The family 40_register_file.md, R74 to R81: the next state of each operation, and which operations reach
`statusReg`, `sourceAddress`, `transferLength` and `bitCount`. -/

namespace Sys2Proof.Machine

/-! ### The next states -/

theorem exec_rdStatus (s : State) : exec .rdStatus s = .next (s.answerWord s.statusValue) := rfl

theorem exec_wrStatus (v : Word) (s : State) :
    exec (.wrStatus v) s = .next ((s.setStatusReg v).answerWrite .okay) := rfl

theorem exec_rdSrcaddr (s : State) : exec .rdSrcaddr s = .next (s.answerWord s.sourceAddress) := rfl

theorem exec_wrSrcaddr (v : Word) (s : State) :
    exec (.wrSrcaddr v) s = .next ((s.setSourceAddress v).answerWrite .okay) := rfl

theorem exec_rdLength (s : State) : exec .rdLength s = .next (s.answerWord s.transferLength) := rfl

theorem exec_rdReset (w : ResetWidth) (s : State) :
    exec (.rdReset w) s =
      .next ((s.logEvent ⟨.resetMisuse, .read, s.cfg.resetBase + offReset, w.bytes⟩).answerRead .okay w.bytes 0) :=
  rfl

/-- A zero reset write, at any width, only answers OKAY (40_register_file.md R81). -/
theorem exec_wrReset_of_zero {d : ResetData} (hd : d.toBus = 0) (s : State) :
    exec (.wrReset d) s = .next (s.answerWrite .okay) := by
  have hreq : ¬ resetRequested d = true := fun h => (resetRequested_iff d).1 h hd
  simp only [exec, execWrReset, if_neg hreq]

/-- In IDLE mode a status read gives the constant (40_register_file.md R74). -/
theorem statusValue_idle {s : State} (h : s.cfg.statusMode = .idle) : s.statusValue = s.cfg.statusIdle := by
  rw [State.statusValue, h]

/-- In STORED mode a status read gives the register (40_register_file.md R74). -/
theorem statusValue_stored {s : State} (h : s.cfg.statusMode = .stored) : s.statusValue = s.statusReg := by
  rw [State.statusValue, h]

/-- A length write that asks for no whole word only latches and answers OKAY (42_dma.md R103). -/
theorem exec_wrLength_of_no_words {v : Word} (hn : wordsRequested v = 0) (s : State) :
    exec (.wrLength v) s = .next ((s.latchLength v).answerWrite .okay) := by
  have h0 : wordCount (s.latchLength v).transferLength = 0 := (wordCount_maskLength v).trans hn
  rw [exec_wrLength]
  rcases runTransfer_cases (s.latchLength v) with ⟨-, hrun⟩ | hsome
  · rw [hrun, answerTransfer]
  · omega

/-! ### The registers a length write leaves or sets -/

theorem exec_wrLength_sourceAddress {v : Word} {s t : State} (h : exec (.wrLength v) s = .next t) :
    t.sourceAddress = s.sourceAddress := by
  obtain ⟨n, m, r, rfl, -⟩ := exec_wrLength_frame h
  rfl

theorem exec_wrLength_transferLength {v : Word} {s t : State} (h : exec (.wrLength v) s = .next t) :
    t.transferLength = maskLength v := by
  obtain ⟨n, m, r, rfl, -⟩ := exec_wrLength_frame h
  rfl

/-- No operation but `WR.STATUS` changes `statusReg` (40_register_file.md R74). -/
theorem exec_statusReg_frame {i : Instr} {s t : State} (hi : ∀ v, i ≠ .wrStatus v) (h : exec i s = .next t) :
    t.statusReg = s.statusReg := by
  cases i with
  | wrStatus v => exact absurd rfl (hi v)
  | rdControl => obtain ⟨-, rfl⟩ := exec_rdControl_eq_next_iff.1 h; rfl
  | wrControl v => obtain ⟨-, rfl⟩ := exec_wrControl_eq_next_iff.1 h; rfl
  | rdBitcount => obtain ⟨-, rfl⟩ := exec_rdBitcount_eq_next_iff.1 h; rfl
  | wrDatain v => obtain ⟨-, rfl⟩ := exec_wrDatain_eq_next_iff.1 h; rfl
  | wrLength v => obtain ⟨n, m, r, rfl, -⟩ := exec_wrLength_frame h; rfl
  | wrReset d => obtain ⟨w, n, rfl⟩ := exec_wrReset_frame h; rfl
  | _ => cases h; rfl

/-! ### What `bitCount` can become -/

/-- The most one operation can add: 32 for each word of the longest transfer (10_state.md R19). -/
def maxIncrement : Nat := 32 * (2 ^ 24 - 1)

/-- `b` is `a` grown by no more than one operation can add, modulo `2^64`. -/
def GrowsTo (a b : Count) : Prop := ∃ n, n ≤ maxIncrement ∧ b = a + BitVec.ofNat 64 n

theorem GrowsTo.refl (a : Count) : GrowsTo a a := ⟨0, Nat.zero_le _, by simp⟩

/-- A growth that does not wrap does not lower the count. -/
theorem GrowsTo.toNat_le {a b : Count} (h : GrowsTo a b) (ha : a.toNat + maxIncrement < 2 ^ 64) :
    a.toNat ≤ b.toNat := by
  obtain ⟨n, hn, rfl⟩ := h
  rw [BitVec.toNat_add, BitVec.toNat_ofNat, Nat.add_mod_mod, Nat.mod_eq_of_lt (by omega)]
  exact Nat.le_add_right _ _

theorem blockBits_le (s : State) (n : Nat) : s.blockBits n ≤ 32 * n := by
  have h := List.sum_le_card_nsmul ((List.range n).map fun i => popcount32 (s.blockWord i)) 32 (by
    simpa using fun i _ => popcount32_le (s.blockWord i))
  simpa [State.blockBits, Nat.mul_comm] using h

/-- The bits of the longest block a length write can ask for. -/
theorem blockBits_wordsRequested_le (s : State) (v : Word) : s.blockBits (wordsRequested v) ≤ maxIncrement := by
  have hbits := blockBits_le s (wordsRequested v)
  have hwords : wordsRequested v ≤ 2 ^ 24 - 1 := by rw [wordsRequested]; omega
  rw [maxIncrement]
  omega

theorem exec_wrLength_growsTo {v : Word} {s t : State} (h : exec (.wrLength v) s = .next t) :
    GrowsTo s.bitCount t.bitCount := by
  rcases exec_wrLength_cases h with
    ⟨-, rfl⟩ | ⟨-, -, rfl⟩ | ⟨-, -, -, rfl⟩ | ⟨-, -, -, -, rfl⟩ | ⟨-, -, -, -, rfl⟩
  case inr.inr.inl => exact ⟨_, blockBits_wordsRequested_le s v, rfl⟩
  all_goals exact GrowsTo.refl _

/-- Every operation but a non-zero reset write adds to `bitCount` or leaves it (10_state.md R19). -/
theorem exec_growsTo_or_reset {i : Instr} {s t : State} (h : exec i s = .next t) :
    GrowsTo s.bitCount t.bitCount ∨ ∃ d, i = .wrReset d ∧ d.toBus ≠ 0 := by
  cases i with
  | wrReset d =>
    by_cases hd : d.toBus = 0
    · rw [exec_wrReset_of_zero hd] at h
      cases h
      exact .inl (GrowsTo.refl _)
    · exact .inr ⟨d, rfl, hd⟩
  | wrDatain v =>
    obtain ⟨-, rfl⟩ := exec_wrDatain_eq_next_iff.1 h
    exact .inl ⟨popcount32 v, (popcount32_le v).trans (by decide), rfl⟩
  | wrLength v => exact .inl (exec_wrLength_growsTo h)
  | rdControl => obtain ⟨-, rfl⟩ := exec_rdControl_eq_next_iff.1 h; exact .inl (GrowsTo.refl _)
  | wrControl v => obtain ⟨-, rfl⟩ := exec_wrControl_eq_next_iff.1 h; exact .inl (GrowsTo.refl _)
  | rdBitcount => obtain ⟨-, rfl⟩ := exec_rdBitcount_eq_next_iff.1 h; exact .inl (GrowsTo.refl _)
  | _ => cases h; exact .inl (GrowsTo.refl _)

/-! ### The statements -/

/-- Settles O23: the value read is chosen by `STATUS_MODE`, and only `WR.STATUS` reaches `statusReg`. -/
theorem readStatusByConfiguration : Obligations.ReadStatusByConfiguration := by
  unfold Obligations.ReadStatusByConfiguration
  refine ⟨?idle, ?stored, ?decodes, ?cfg, ?creation, ?write, ?frame⟩
  case idle =>
    intro s hm
    rw [exec_rdStatus, statusValue_idle hm]
    rfl
  case stored =>
    intro s hm
    rw [exec_rdStatus, statusValue_stored hm]
    rfl
  case decodes => exact fun c hc => decodesTo_rdStatus hc
  case cfg => exact fun s t i h => (exec_frame h).1
  case creation => exact fun c => rfl
  case write =>
    intro s t v h
    cases h
    rfl
  case frame => exact fun s t i hi h => exec_statusReg_frame hi h

/-- Settles O29: the two cases of the written value, and `exec_growsTo_or_reset` for every other operation. -/
theorem writeResetClearsScratchAndCount : Obligations.WriteResetClearsScratchAndCount := by
  unfold Obligations.WriteResetClearsScratchAndCount
  refine ⟨?nonZero, ?zero, ?decodes, ?lowers⟩
  case nonZero => exact fun s d hd => exec_wrReset_of_ne_zero hd s
  case zero => exact fun s d hd => exec_wrReset_of_zero hd s
  case decodes =>
    intro c hc
    exact ⟨fun v => decodesTo_wrReset hc (.byte v), fun v => decodesTo_wrReset hc (.half v),
      fun v => decodesTo_wrReset hc (.word v)⟩
  case lowers =>
    intro s t i h hwrap hlt
    rcases exec_growsTo_or_reset h with hgrows | hreset
    · exact absurd (hgrows.toNat_le hwrap) (Nat.not_le.2 hlt)
    · exact hreset

/-- Settles O24: the store does not look at the configuration, and in IDLE mode the next read does not look at the
register. -/
theorem writeStatusStoresInEveryConfiguration : Obligations.WriteStatusStoresInEveryConfiguration := by
  unfold Obligations.WriteStatusStoresInEveryConfiguration
  refine ⟨?stores, ?hidden, ?decodes⟩
  case stores => exact fun s v => exec_wrStatus v s
  case hidden =>
    intro s t v hm h
    have hcfg : t.cfg = s.cfg := (exec_frame h).1
    rw [← hcfg] at hm ⊢
    rw [exec_rdStatus, statusValue_idle hm]
    rfl
  case decodes => exact fun c v hc => decodesTo_wrStatus hc v

/-- Settles O25: a length write changes no source address. -/
theorem readSourceAddressReturnsIt : Obligations.ReadSourceAddressReturnsIt := by
  unfold Obligations.ReadSourceAddressReturnsIt
  refine ⟨?read, ?decodes, ?readsBack, ?kept⟩
  case read => exact fun s => exec_rdSrcaddr s
  case decodes => exact fun c hc => decodesTo_rdSrcaddr hc
  case readsBack =>
    intro s t v h
    cases h
    rfl
  case kept => exact fun s t v h => exec_wrLength_sourceAddress h

/-- Settles O26: the store checks nothing; an invalid byte of the block fails the later length write, unless it asks for
no whole word. -/
theorem writeSourceAddressStoresAnyValue : Obligations.WriteSourceAddressStoresAnyValue := by
  unfold Obligations.WriteSourceAddressStoresAnyValue
  refine ⟨?stores, ?unreachable, ?noWords, ?decodes⟩
  case stores => exact fun s v => exec_wrSrcaddr v s
  case unreachable =>
    rintro s t v len h ⟨j, hj, hinvalid⟩
    cases h
    have hblock : ¬ ((s.setSourceAddress v).answerWrite .okay).BlockReadable (wordsRequested len) :=
      fun hr => Bool.false_ne_true (hinvalid.symm.trans (hr j hj))
    exact ⟨_, exec_wrLength_dmaFailed (by omega) (.inl hblock), rfl⟩
  case noWords =>
    intro s t v len _ hn
    exact ⟨_, exec_wrLength_of_no_words hn t, rfl⟩
  case decodes => exact fun c v hc => decodesTo_wrSrcaddr hc v

/-- Settles O27: a length write leaves the masked length whatever becomes of the transfer. -/
theorem readLengthReturnsTheRequestedLength : Obligations.ReadLengthReturnsTheRequestedLength := by
  unfold Obligations.ReadLengthReturnsTheRequestedLength
  refine ⟨?read, ?decodes, ?reservedBits, ?afterWrite⟩
  case read => exact fun s => exec_rdLength s
  case decodes => exact fun c hc => decodesTo_rdLength hc
  case reservedBits =>
    rintro s ⟨-, hlen, -⟩
    exact hlen
  case afterWrite =>
    intro s t v h
    rw [← maskLength_toNat, ← exec_wrLength_transferLength h]
    exact exec_rdLength t

/-- Settles O28: `ResetMisuse` is a logged kind that answers OKAY, and the value is 0 at every width. -/
theorem readResetReturnsZeroAndLogs : Obligations.ReadResetReturnsZeroAndLogs := by
  unfold Obligations.ReadResetReturnsZeroAndLogs
  refine ⟨?read, ?decodes⟩
  case read => exact fun s w => exec_rdReset w s
  case decodes =>
    intro c hc
    exact ⟨decodesTo_rdReset hc .one, decodesTo_rdReset hc .two, decodesTo_rdReset hc .four⟩

end Sys2Proof.Machine
end

section
/-! PROOF. The family 41_popcount.md, R90 and R91: `v &&& (v - 1)` drops the first of the positions at which `v` has a 1,
so the source's loop counts these positions one by one. -/

namespace Sys2Proof.Machine

/-- `n &&& (n - 1)` has the 1 bits of `n` but the lowest: an odd `n` loses bit 0, and an even `n` is decided by
its half. -/
theorem bitIndices_and_sub_one (n : Nat) : (n &&& (n - 1)).bitIndices = n.bitIndices.tail := by
  induction n using Nat.binaryRec with
  | zero => rfl
  | bit b n ih =>
    cases b with
    | true =>
      have hpred : Nat.bit true n - 1 = Nat.bit false n := rfl
      rw [hpred, Nat.land_bit, Nat.and_self, Bool.and_false, Nat.bitIndices_bit_false, Nat.bitIndices_bit_true,
        List.tail_cons]
    | false =>
      rcases Nat.eq_zero_or_pos n with rfl | hpos
      · rfl
      · have hpred : Nat.bit false n - 1 = Nat.bit true (n - 1) := by simp only [Nat.bit_false, Nat.bit_true]; omega
        rw [hpred, Nat.land_bit, Bool.false_and, Nat.bitIndices_bit_false, ih, Nat.bitIndices_bit_false, List.map_tail]

theorem bitIndices_length_eq_zero_iff (n : Nat) : n.bitIndices.length = 0 ↔ n = 0 := by
  rw [List.length_eq_zero_iff]
  refine ⟨fun h => ?_, fun h => by rw [h, Nat.bitIndices_zero]⟩
  rw [← Nat.sum_map_two_pow_bitIndices n, h, List.map_nil, List.sum_nil]

/-- The positions that `popcount32` counts are the 1 bits of the word's number: no 1 lies above bit 31. -/
theorem popcount32_eq_length_bitIndices (w : Word) : popcount32 w = w.toNat.bitIndices.length := by
  rw [popcount32, List.countP_eq_length_filter]
  refine ((List.perm_ext_iff_of_nodup (List.nodup_range.filter _) Nat.bitIndices_nodup).2 fun i => ?_).length_eq
  rw [List.mem_filter, List.mem_range, Nat.mem_bitIndices]
  exact and_iff_right_of_imp BitVec.lt_of_getLsbD

theorem popcount32_eq_zero_iff (w : Word) : popcount32 w = 0 ↔ w = 0 := by
  rw [popcount32_eq_length_bitIndices, bitIndices_length_eq_zero_iff]
  exact (BitVec.toNat_eq (y := (0 : Word))).symm

theorem toNat_and_sub_one (v : Word) : (v &&& (v - 1)).toNat = v.toNat &&& (v.toNat - 1) := by
  by_cases hv : v = 0
  · subst hv; rfl
  · have hpos : (1 : Word) ≤ v := by bv_omega
    rw [BitVec.toNat_and, BitVec.toNat_sub_of_le hpos]
    rfl

/-- One iteration of the loop clears one 1 bit (41_popcount.md R91). -/
theorem popcount32_and_sub_one (v : Word) : popcount32 (v &&& (v - 1)) = popcount32 v - 1 := by
  simp only [popcount32_eq_length_bitIndices, toNat_and_sub_one, bitIndices_and_sub_one, List.length_tail]

/-- From any count, `k` iterations add `k`, or `popcount32` of the value when that is less. -/
theorem kernighanLoop_eq_add_min (k : Nat) (v : Word) (c : Nat) : kernighanLoop k v c = c + min k (popcount32 v) := by
  induction k generalizing v c with
  | zero => rw [kernighanLoop, Nat.zero_min, Nat.add_zero]
  | succ k ih =>
    rw [kernighanLoop]
    split
    case isTrue hv => rw [(popcount32_eq_zero_iff v).2 hv, Nat.min_zero, Nat.add_zero]
    case isFalse hv =>
      have hpos : popcount32 v ≠ 0 := mt (popcount32_eq_zero_iff v).1 hv
      rw [ih, popcount32_and_sub_one]
      omega

theorem countP_eq_sum_map_toNat (p : Nat → Bool) (l : List Nat) : l.countP p = (l.map fun j => (p j).toNat).sum := by
  induction l with
  | nil => rfl
  | cons j l ih =>
    rw [List.countP_cons, List.map_cons, List.sum_cons, ih, Nat.add_comm]
    cases p j <;> rfl

/-- Settles O48: `kernighanLoop_eq_add_min` from count 0, and 32 iterations are enough because a word has 32 bits. -/
theorem kernighanLoopIsPopcount : Obligations.KernighanLoopIsPopcount := by
  unfold Obligations.KernighanLoopIsPopcount
  have hloop : ∀ (w : Word) (k : Nat), kernighanLoop k w 0 = min k (popcount32 w) := by
    intro w k
    rw [kernighanLoop_eq_add_min, Nat.zero_add]
  refine ⟨?bits, popcount32_zero, ?ones, hloop, ?runs⟩
  case bits => exact fun w => ⟨countP_eq_sum_map_toNat _ _, popcount32_le w⟩
  case ones => decide
  case runs =>
    intro w
    rw [kernighan, hloop, Nat.min_eq_right (popcount32_le w)]

end Sys2Proof.Machine
end

section
/-! PROOF. The family 42_dma.md, R101 to R112: a length write latches; with no whole word it is done; a block it cannot
read fails it; a block it can read is handed word by word to the sink, which counts it or relays it. -/

namespace Sys2Proof.Machine

/-! ### The word count -/

/-- The words asked for are bits 25:2 of the value stored (42_dma.md R102). -/
theorem wordsRequested_eq_extractLsb' (v : Word) : wordsRequested v = ((maskLength v).extractLsb' 2 24).toNat := by
  rw [BitVec.extractLsb'_toNat, maskLength_toNat, Nat.shiftRight_eq_div_pow, wordsRequested]
  omega

theorem wordsRequested_le (v : Word) : wordsRequested v ≤ 2 ^ 24 - 1 := by
  rw [wordsRequested]
  omega

/-- The two low bits of a length ask for no word (42_dma.md R102). -/
theorem wordsRequested_clear_remainder (v : Word) : wordsRequested (v &&& 0xFFFFFFFC) = wordsRequested v := by
  have hbits : (maskLength (v &&& 0xFFFFFFFC)).extractLsb' 2 24 = (maskLength v).extractLsb' 2 24 := by
    have hkept : (0xFFFFFFFC : Word).extractLsb' 2 24 = BitVec.allOnes 24 := by decide
    rw [maskLength, maskLength, BitVec.extractLsb'_and, BitVec.extractLsb'_and, hkept, BitVec.and_allOnes,
      ← BitVec.extractLsb'_and]
  rw [wordsRequested_eq_extractLsb', wordsRequested_eq_extractLsb', hbits]

/-! ### The block and the sinks -/

/-- A block of no word is readable whatever memory is valid (42_dma.md R103). -/
theorem wordsRequested_pos_of_not_blockReadable {s : State} {v : Word} (hr : ¬ s.BlockReadable (wordsRequested v)) :
    0 < wordsRequested v := by
  refine Nat.pos_of_ne_zero fun h0 => hr fun j hj => ?_
  omega

/-- A readable block goes to the sink word by word, as memory holds it (42_dma.md R104, R105). -/
theorem runTransfer_of_blockReadable {s : State} (hr : s.BlockReadable (wordCount s.transferLength)) :
    s.runTransfer = sinkWords ((List.range (wordCount s.transferLength)).map s.blockWord) s := by
  have hread : s.memRead s.sourceAddress.toNat (4 * wordCount s.transferLength) = some _ :=
    memRead_eq_some_iff.2 ⟨hr, rfl⟩
  rcases Nat.eq_zero_or_pos (wordCount s.transferLength) with h0 | hpos
  · simp [State.runTransfer, h0, sinkWords]
  · simp only [State.runTransfer, Nat.ne_of_gt hpos, if_false, hread, wordsOf_block]

theorem exec_wrLength_of_blockReadable {s : State} {v : Word} (hr : s.BlockReadable (wordsRequested v)) :
    exec (.wrLength v) s =
      .next (answerTransfer (sinkWords ((List.range (wordsRequested v)).map s.blockWord) (s.latchLength v))) := by
  have hn : wordCount (s.latchLength v).transferLength = wordsRequested v := wordCount_maskLength v
  rw [exec_wrLength, runTransfer_of_blockReadable (s := s.latchLength v) (by rw [hn]; exact hr), hn]
  rfl

/-- The accumulate sink counts a readable block, of any number of words (42_dma.md R106). -/
theorem exec_wrLength_accumulate {s : State} {v : Word} (hs : s.cfg.sinkMode = .accumulate)
    (hr : s.BlockReadable (wordsRequested v)) :
    exec (.wrLength v) s = .next (((s.latchLength v).setBitCount
      (s.bitCount + BitVec.ofNat 64 (s.blockBits (wordsRequested v)))).answerWrite .okay) := by
  rw [exec_wrLength_of_blockReadable hr, sinkWords_accumulate (s := s.latchLength v) hs, List.map_map]
  rfl

/-- The relay sink writes each word of a readable block to `RELAY_DEST` (42_dma.md R107). -/
theorem exec_wrLength_relay {s : State} {v : Word} (hs : s.cfg.sinkMode = .relay)
    (hr : s.BlockReadable (wordsRequested v)) (hd : s.RelayWritable) :
    exec (.wrLength v) s = .next (((s.latchLength v).setMemory (relayedMemory s.cfg.relayDest
      ((List.range (wordsRequested v)).map s.blockWord) s.memory)).answerWrite .okay) := by
  rw [exec_wrLength_of_blockReadable hr, sinkWords_relay (s := s.latchLength v) hs hd]
  rfl

theorem bytesLE32_blockWord (s : State) (i : Nat) :
    bytesLE32 (s.blockWord i) =
      (List.range 4).map (fun j => s.memory.readByte (s.sourceAddress.toNat + 4 * i + j)) :=
  bytesLE32_le32 _ _ _ _

/-- The last word of the block stays at the destination, with the bytes it was read with (42_dma.md R107,
20_memory.md R47). -/
theorem relayedMemory_block_inside {s : State} (hm : s.memory.Wf) {n j : Nat} (hn : 0 < n) (hj : j < 4) (dest : Nat) :
    (relayedMemory dest ((List.range n).map s.blockWord) s.memory).readByte (dest + j) =
      s.memory.readByte (s.sourceAddress.toNat + 4 * (n - 1) + j) := by
  obtain ⟨k, rfl⟩ : ∃ k, n = k + 1 := ⟨n - 1, by omega⟩
  rw [List.range_succ, List.map_append, List.map_singleton, relayedMemory_inside hm hj]
  simp [bytesLE32_blockWord]

/-! ### What a length write can answer, and what the remainder bits can change -/

/-- A length write that does not answer OKAY has changed only what the latch changes (42_dma.md R112). -/
theorem exec_wrLength_okay_or_latched {s t : State} {v : Word} (h : exec (.wrLength v) s = .next t) :
    t.replies = s.replies ++ [.write .okay] ∨ t = (s.latchLength v).answerWrite .dmaFailed := by
  rcases exec_wrLength_cases h with
    ⟨-, rfl⟩ | ⟨-, -, rfl⟩ | ⟨-, -, -, rfl⟩ | ⟨-, -, -, -, rfl⟩ | ⟨-, -, -, -, rfl⟩
  · exact .inl rfl
  · exact .inr rfl
  · exact .inl rfl
  · exact .inr rfl
  · exact .inl rfl

/-- Two length writes that ask for the same words differ only in the length they store (42_dma.md R102). -/
theorem exec_wrLength_of_same_words {s t : State} {v w : Word} (hw : wordsRequested w = wordsRequested v)
    (h : exec (.wrLength v) s = .next t) : exec (.wrLength w) s = .next (t.setTransferLength (maskLength w)) := by
  rcases exec_wrLength_cases h with
    ⟨h0, rfl⟩ | ⟨hn, hr, rfl⟩ | ⟨-, hr, hs, rfl⟩ | ⟨hn, -, hs, hd, rfl⟩ | ⟨-, hr, hs, hd, rfl⟩ <;> rw [← hw] at *
  · exact exec_wrLength_of_no_words h0 s
  · exact exec_wrLength_dmaFailed hn (.inl hr)
  · exact exec_wrLength_accumulate hs hr
  · exact exec_wrLength_dmaFailed hn (.inr ⟨hs, hd⟩)
  · exact exec_wrLength_relay hs hr hd

/-! ### The statements -/

/-- Settles O34: the latch comes before the transfer, and the transfer changes neither the length nor the flag. -/
theorem lengthWriteLatchesMaskedLength : Obligations.LengthWriteLatchesMaskedLength := by
  unfold Obligations.LengthWriteLatchesMaskedLength
  intro s v
  obtain ⟨n, m, r, hframe, -⟩ := exec_wrLength_frame (exec_wrLength v s)
  refine ⟨_, exec_wrLength v s, ?_⟩
  rw [hframe]
  exact ⟨rfl, maskLength_toNat v, rfl⟩

/-- Settles O35: the two low bits of a length change no bit of its word count, and the transfer sees only that. -/
theorem onlyWholeWordsAreTransferred : Obligations.OnlyWholeWordsAreTransferred := by
  unfold Obligations.OnlyWholeWordsAreTransferred
  refine ⟨?count, ?remainder⟩
  case count =>
    intro v
    have hn : wordCount (v &&& 0x3FFFFFF) = wordsRequested v := wordCount_maskLength v
    rw [hn]
    exact ⟨wordsRequested_eq_extractLsb' v, rfl, wordsRequested_le v⟩
  case remainder =>
    intro s t u v ht hu
    have hsame := exec_wrLength_of_same_words (wordsRequested_clear_remainder v).symm hu
    cases ht.symm.trans hsame
    rfl

/-- Settles O36: with no whole word there is no transfer. -/
theorem zeroWordTransferTouchesNoMemory : Obligations.ZeroWordTransferTouchesNoMemory := by
  unfold Obligations.ZeroWordTransferTouchesNoMemory
  intro s v hv
  exact exec_wrLength_of_no_words (Nat.div_eq_of_lt hv) s

/-- Settles O37: an unreadable block fails the transfer before any word is sunk, and neither sink fails on a readable
one. -/
theorem blockReadIsAllOrNothing : Obligations.BlockReadIsAllOrNothing := by
  unfold Obligations.BlockReadIsAllOrNothing
  refine ⟨?unreadable, ?readable⟩
  case unreadable =>
    intro s v hr
    exact exec_wrLength_dmaFailed (wordsRequested_pos_of_not_blockReadable hr) (.inl hr)
  case readable =>
    intro s v hr hsink
    cases hs : s.cfg.sinkMode with
    | accumulate => exact ⟨_, exec_wrLength_accumulate hs hr, rfl⟩
    | relay =>
      have hd : s.RelayWritable := hsink.resolve_left (by simp [hs])
      exact ⟨_, exec_wrLength_relay hs hr hd, rfl⟩

/-- Settles O38: the accumulate sink never fails, and the words it gets are the block's. -/
theorem accumulateTransferCountsTheBlock : Obligations.AccumulateTransferCountsTheBlock := by
  unfold Obligations.AccumulateTransferCountsTheBlock
  intro s v hs hr
  rw [exec_wrLength_accumulate hs hr, BitVec.ofNat_add, BitVec.ofNat_toNat, BitVec.setWidth_eq]
  rfl

/-- Settles O39: each word overwrites the one before it, and a destination that is not writable fails the first. -/
theorem relayTransferLeavesTheLastWord : Obligations.RelayTransferLeavesTheLastWord := by
  unfold Obligations.RelayTransferLeavesTheLastWord
  refine ⟨?relayed, ?blocked⟩
  case relayed =>
    intro s v hm hs hn hr hd
    exact ⟨_, exec_wrLength_relay hs hr hd, fun a ha => relayedMemory_outside ha _,
      fun j hj => relayedMemory_block_inside hm hn hj _⟩
  case blocked =>
    intro s v hs hn _ hd
    exact exec_wrLength_dmaFailed hn (.inr ⟨hs, hd⟩)

/-- Settles O40: the only outcome that does not answer OKAY is the latch alone. -/
theorem failedTransferLeavesOnlyTheLatch : Obligations.FailedTransferLeavesOnlyTheLatch := by
  unfold Obligations.FailedTransferLeavesOnlyTheLatch
  intro s t v h hreply
  rcases exec_wrLength_okay_or_latched h with hokay | rfl
  · rw [hokay] at hreply
    simp at hreply
  · rfl

end Sys2Proof.Machine
end

section
/-! PROOF. The family 43_bus_dispatcher.md, R122 to R124: what a transaction that reaches no register does, alone and in
any sequence, and that every transaction of the format of R50 is answered. -/

namespace Sys2Proof.Machine

/-! ### One rejected access -/

theorem exec_rdReject (a w : Nat) (s : State) :
    exec (.rdReject a w) s =
      .next ((s.logEvent ⟨.outOfRangeAccess, .read, a, w⟩).answerRead .rejected w (badReadValue s.cfg w)) := rfl

theorem exec_wrReject (a w : Nat) (v : BusValue) (s : State) :
    exec (.wrReject a w v) s = .next ((s.logEvent ⟨.outOfRangeAccess, .write, a, w⟩).answerWrite .rejected) := rfl

theorem decode_read_of_unaccepted {c : Cfg} {a w : Nat} (hwf : (Transaction.read a w).Wf c)
    (h : c.acceptedRegister a w = none) : decode c (.read a w) = .ok (.rdReject a w) := by
  rw [decode_read hwf, dispatchRead_of_unaccepted h]

theorem decode_write_of_unaccepted {c : Cfg} {a w : Nat} {v : BusValue} (hwf : (Transaction.write a w v).Wf c)
    (h : c.acceptedRegister a w = none) : decode c (.write a w v) = .ok (.wrReject a w v) := by
  rw [decode_write hwf, dispatchWrite_of_unaccepted v h]

theorem badReadValue_lt (c : Cfg) (w : Nat) : badReadValue c w < 2 ^ (8 * w) := Nat.mod_lt _ (Nat.two_pow_pos _)

/-- This hardware lists no bad-read value (92_eei_decisions.md D3; log 9). -/
theorem badReadValue_hardware (w : Nat) : badReadValue Cfg.hardware w = 0 := Nat.zero_mod _

/-- Settles O31: a read that reaches no register is dispatched to `RD.REJECT`, whose next state is one event and one
reply. -/
theorem rejectedReadReturnsBadRead : Obligations.RejectedReadReturnsBadRead := by
  unfold Obligations.RejectedReadReturnsBadRead
  refine ⟨?read, ?decodes, ?bits, ?hardware⟩
  case read => exact fun s a w => exec_rdReject a w s
  case decodes => exact fun c a w hwf h => decode_read_of_unaccepted hwf h
  case bits => exact badReadValue_lt
  case hardware => exact badReadValue_hardware

/-- Settles O32: a write that reaches no register is dispatched to `WR.REJECT`, whose next state does not name the
value. -/
theorem rejectedWriteIsDiscarded : Obligations.RejectedWriteIsDiscarded := by
  unfold Obligations.RejectedWriteIsDiscarded
  refine ⟨?write, ?decodes⟩
  case write => exact fun s a w v => exec_wrReject a w v s
  case decodes => exact fun c a w v hwf h => decode_write_of_unaccepted hwf h

/-! ### Both directions at once -/

/-- The event a rejected transaction logs (60_exceptions.md R137). -/
def rejectEvent (tx : Transaction) : LogEvent := ⟨.outOfRangeAccess, tx.direction, tx.addr, tx.width⟩

/-- The reply a rejected transaction gets (43_bus_dispatcher.md R122, R123). -/
def rejectReply (c : Cfg) : Transaction → Reply
  | .read _ w => .read .rejected w (badReadValue c w)
  | .write _ _ _ => .write .rejected

theorem rejectReply_response (c : Cfg) (tx : Transaction) : (rejectReply c tx).response = .rejected := by
  cases tx <;> rfl

/-- The transaction is one the dispatcher does not accept (43_bus_dispatcher.md R124). -/
abbrev Unaccepted (c : Cfg) (tx : Transaction) : Prop :=
  tx.Wf c ∧ c.acceptedRegister tx.addr tx.width = none

/-- One step over a queue that begins with a rejected transaction. -/
theorem step_queue_cons_of_unaccepted {s : State} {tx : Transaction} (txs : List Transaction)
    (ha : s.attached = true) (h : Unaccepted s.cfg tx) :
    step (s.queue (tx :: txs)) = .next (((s.logEvent (rejectEvent tx)).reply (rejectReply s.cfg tx)).queue txs) := by
  obtain ⟨hwf, hnone⟩ := h
  cases tx with
  | read a w =>
    rw [step_queue_cons txs ha (decode_read_of_unaccepted hwf hnone), exec_rdReject]
    rfl
  | write a w v =>
    rw [step_queue_cons txs ha (decode_write_of_unaccepted hwf hnone), exec_wrReject]
    rfl

theorem core_run_succ_of_step {s t : State} (h : step s = .next t) (k : Nat) :
    Sys2Proof.core.run (k + 1) s = Sys2Proof.core.run k t := by
  have hcore : Sys2Proof.core.step s = .next t := h
  simp only [Host.Core.run, hcore]

/-- A run over rejected transactions: the log and the replies grow by one entry each, and nothing else changes
(43_bus_dispatcher.md R124). -/
theorem run_queue_of_unaccepted (txs : List Transaction) (s : State) (ha : s.attached = true)
    (h : ∀ tx ∈ txs, Unaccepted s.cfg tx) :
    Sys2Proof.core.run txs.length (s.queue txs) = .next { s with
      log := s.log ++ txs.map rejectEvent, replies := s.replies ++ txs.map (rejectReply s.cfg), pending := [] } := by
  induction txs generalizing s with
  | nil => simp [Host.Core.run, State.queue, State.setPending]
  | cons tx txs ih =>
    obtain ⟨htx, htxs⟩ := List.forall_mem_cons.1 h
    have hstep := step_queue_cons_of_unaccepted txs ha htx
    have hrest := ih ((s.logEvent (rejectEvent tx)).reply (rejectReply s.cfg tx)) ha htxs
    refine (core_run_succ_of_step hstep txs.length).trans (hrest.trans ?_)
    simp

/-! ### Every transaction is answered -/

theorem exists_decode_of_wf {c : Cfg} {tx : Transaction} (h : tx.Wf c) : ∃ i, decode c tx = .ok i := by
  cases tx with
  | read a w => exact ⟨_, decode_read h⟩
  | write a w v => exact ⟨_, decode_write h⟩

/-- An operation the device has completes: only the offset-0x00 operations can be absent (log 12). -/
theorem exists_exec_of_wf {i : Instr} {s : State} (hi : i.Wf s.cfg = true) : ∃ t, exec i s = .next t := by
  cases i with
  | rdControl | wrControl | rdBitcount | wrDatain => exact ⟨_, onlyInMode_of_mode (beq_iff_eq.1 hi)⟩
  | _ => exact ⟨_, rfl⟩

/-- An operation that completes gives exactly one reply (60_exceptions.md R131). -/
theorem exec_replies {i : Instr} {s t : State} (h : exec i s = .next t) : ∃ r, t.replies = s.replies ++ [r] := by
  cases i with
  | rdControl => obtain ⟨-, rfl⟩ := exec_rdControl_eq_next_iff.1 h; exact ⟨_, rfl⟩
  | wrControl v => obtain ⟨-, rfl⟩ := exec_wrControl_eq_next_iff.1 h; exact ⟨_, rfl⟩
  | rdBitcount => obtain ⟨-, rfl⟩ := exec_rdBitcount_eq_next_iff.1 h; exact ⟨_, rfl⟩
  | wrDatain v => obtain ⟨-, rfl⟩ := exec_wrDatain_eq_next_iff.1 h; exact ⟨_, rfl⟩
  | wrLength v => obtain ⟨n, m, r, rfl, -⟩ := exec_wrLength_frame h; exact ⟨_, rfl⟩
  | wrReset d => obtain ⟨w, n, rfl⟩ := exec_wrReset_frame h; exact ⟨_, rfl⟩
  | _ => cases h; exact ⟨_, rfl⟩

/-- A transaction of the format of R50 to an attached device completes with one reply. -/
theorem step_issue_replies {s : State} {tx : Transaction} {rest : List HostMove} (ha : s.attached = true)
    (hwf : tx.Wf s.cfg) (hp : s.pending = .issue tx :: rest) :
    ∃ t r, step s = .next t ∧ t.replies = s.replies ++ [r] := by
  obtain ⟨i, hd⟩ := exists_decode_of_wf hwf
  obtain ⟨t, ht⟩ := exists_exec_of_wf (s := s.setPending rest) (decode_wf hd).1
  obtain ⟨r, hr⟩ := exec_replies ht
  refine ⟨t, r, ?_, hr⟩
  rw [step_move hp]
  exact (issueTransaction_of_decode (s := s.setPending rest) ha hd).trans ht

/-- Settles O33, by induction on the sequence: each rejected transaction appends one event and one reply and leaves the
configuration, so the next one is rejected too. -/
theorem rejectedSequencesChangeNothing : Obligations.RejectedSequencesChangeNothing := by
  unfold Obligations.RejectedSequencesChangeNothing
  refine ⟨?answered, ?sequence⟩
  case answered => exact fun s tx rest ha hwf hp => step_issue_replies ha hwf hp
  case sequence =>
    intro s txs ha h
    refine ⟨_, _, run_queue_of_unaccepted txs s ha h, rfl, List.length_map _, ?_⟩
    exact List.forall_mem_map.2 fun tx _ => rejectReply_response s.cfg tx

end Sys2Proof.Machine
end

section
/-! PROOF. The family 60_exceptions.md, R134 and R137: the length mask drops the reserved bits, and only the REJECT
operations and `RD.RESET` log an event. -/

namespace Sys2Proof.Machine

/-- The latch sees a value through the mask only (42_dma.md R101). -/
theorem latchLength_maskLength (v : Word) (s : State) : s.latchLength (maskLength v) = s.latchLength v := by
  rw [State.latchLength, maskLength_idem, State.latchLength]

/-- No operation but the REJECT operations and `RD.RESET` logs an event (60_exceptions.md R137). -/
theorem exec_log_frame {i : Instr} {s t : State} (hrd : i.op ≠ .rdReject) (hwr : i.op ≠ .wrReject)
    (hreset : i.op ≠ .rdReset) (h : exec i s = .next t) : t.log = s.log := by
  cases i with
  | rdReject a w => exact absurd rfl hrd
  | wrReject a w v => exact absurd rfl hwr
  | rdReset w => exact absurd rfl hreset
  | rdControl => obtain ⟨-, rfl⟩ := exec_rdControl_eq_next_iff.1 h; rfl
  | wrControl v => obtain ⟨-, rfl⟩ := exec_wrControl_eq_next_iff.1 h; rfl
  | rdBitcount => obtain ⟨-, rfl⟩ := exec_rdBitcount_eq_next_iff.1 h; rfl
  | wrDatain v => obtain ⟨-, rfl⟩ := exec_wrDatain_eq_next_iff.1 h; rfl
  | wrLength v => obtain ⟨n, m, r, rfl, -⟩ := exec_wrLength_frame h; rfl
  | wrReset d => obtain ⟨w, n, rfl⟩ := exec_wrReset_frame h; rfl
  | _ => cases h; rfl

/-- Settles O42: a length write acts on its value through the latch alone, which masks it, and the mask is idempotent. -/
theorem reservedLengthBitsAreIgnored : Obligations.ReservedLengthBitsAreIgnored := by
  unfold Obligations.ReservedLengthBitsAreIgnored
  intro s v
  change exec (.wrLength v) s = exec (.wrLength (maskLength v)) s
  rw [exec_wrLength, exec_wrLength, latchLength_maskLength]

/-- Settles O54: the next states of the three logging operations name their event, and no other operation logs. -/
theorem logEventsAreExactlyThese : Obligations.LogEventsAreExactlyThese := by
  unfold Obligations.LogEventsAreExactlyThese
  intro s t i h
  refine ⟨?readReject, ?writeReject, ?readReset, ?other⟩
  case readReject =>
    rintro a w rfl
    cases (exec_rdReject a w s).symm.trans h
    rfl
  case writeReject =>
    rintro a w v rfl
    cases (exec_wrReject a w v s).symm.trans h
    rfl
  case readReset =>
    rintro w rfl
    cases (exec_rdReset w s).symm.trans h
    rfl
  case other => exact fun hrd hwr hreset => exec_log_frame hrd hwr hreset h

end Sys2Proof.Machine
end

section
/-! PROOF. Every operation in one form, from which the statements about all operations follow: it exists in a
`REG0_MODE`, it has an effect on Device State and memory, it logs events and it gives one reply. -/

namespace Sys2Proof.Machine

/-! ### The four parts of an operation -/

/-- The `REG0_MODE` an operation exists in (30_encoding.md R60, "exists when"). -/
def ExistsIn (m : Reg0Mode) : Instr → Prop
  | .rdControl | .wrControl _ => m = .control
  | .rdBitcount | .wrDatain _ => m = .dataIn
  | _ => True

/-- What an operation does to Device State and system memory (10_state.md R28). -/
def effect (i : Instr) (s : State) : State :=
  match i with
  | .wrControl v => s.setControlReg v
  | .wrDatain v => (s.setWriteScratch v).accumulate v
  | .wrStatus v => s.setStatusReg v
  | .wrSrcaddr v => s.setSourceAddress v
  | .wrLength v => ((s.latchLength v).runTransfer).1
  | .wrReset d => if resetRequested d then s.softReset else s
  | _ => s

/-- The events an operation logs (60_exceptions.md R137). -/
def events (c : Cfg) : Instr → List LogEvent
  | .rdReset w => [⟨.resetMisuse, .read, c.resetBase + offReset, w.bytes⟩]
  | .rdReject a w => [⟨.outOfRangeAccess, .read, a, w⟩]
  | .wrReject a w _ => [⟨.outOfRangeAccess, .write, a, w⟩]
  | _ => []

/-- The reply an operation gives (60_exceptions.md R131). -/
def answer (i : Instr) (s : State) : Reply :=
  match i with
  | .rdControl => .read .okay 4 (busOfWord s.controlReg)
  | .rdBitcount => .read .okay 4 (busOfWord (lowWord s.bitCount))
  | .rdStatus => .read .okay 4 (busOfWord s.statusValue)
  | .rdSrcaddr => .read .okay 4 (busOfWord s.sourceAddress)
  | .rdLength => .read .okay 4 (busOfWord s.transferLength)
  | .rdReset w => .read .okay w.bytes 0
  | .rdReject _ w => .read .rejected w (badReadValue s.cfg w)
  | .wrReject _ _ _ => .write .rejected
  | .wrLength v => .write ((s.latchLength v).runTransfer).2
  | .wrControl _ | .wrDatain _ | .wrStatus _ | .wrSrcaddr _ | .wrReset _ => .write .okay

/-- The state with other outputs (10_state.md R25, 60_exceptions.md R131). -/
def State.withOutputs (l : List LogEvent) (rs : List Reply) (s : State) : State := { s with log := l, replies := rs }

@[simp] theorem withOutputs_controlReg (l : List LogEvent) (rs : List Reply) (s : State) :
    (s.withOutputs l rs).controlReg = s.controlReg := rfl
@[simp] theorem withOutputs_statusReg (l : List LogEvent) (rs : List Reply) (s : State) :
    (s.withOutputs l rs).statusReg = s.statusReg := rfl
@[simp] theorem withOutputs_sourceAddress (l : List LogEvent) (rs : List Reply) (s : State) :
    (s.withOutputs l rs).sourceAddress = s.sourceAddress := rfl
@[simp] theorem withOutputs_transferLength (l : List LogEvent) (rs : List Reply) (s : State) :
    (s.withOutputs l rs).transferLength = s.transferLength := rfl
@[simp] theorem withOutputs_writeScratch (l : List LogEvent) (rs : List Reply) (s : State) :
    (s.withOutputs l rs).writeScratch = s.writeScratch := rfl
@[simp] theorem withOutputs_bitCount (l : List LogEvent) (rs : List Reply) (s : State) :
    (s.withOutputs l rs).bitCount = s.bitCount := rfl
@[simp] theorem withOutputs_startFlag (l : List LogEvent) (rs : List Reply) (s : State) :
    (s.withOutputs l rs).startFlag = s.startFlag := rfl
@[simp] theorem withOutputs_interruptLine (l : List LogEvent) (rs : List Reply) (s : State) :
    (s.withOutputs l rs).interruptLine = s.interruptLine := rfl
@[simp] theorem withOutputs_memory (l : List LogEvent) (rs : List Reply) (s : State) :
    (s.withOutputs l rs).memory = s.memory := rfl
@[simp] theorem withOutputs_cfg (l : List LogEvent) (rs : List Reply) (s : State) :
    (s.withOutputs l rs).cfg = s.cfg := rfl
@[simp] theorem withOutputs_attached (l : List LogEvent) (rs : List Reply) (s : State) :
    (s.withOutputs l rs).attached = s.attached := rfl
@[simp] theorem withOutputs_pending (l : List LogEvent) (rs : List Reply) (s : State) :
    (s.withOutputs l rs).pending = s.pending := rfl
@[simp] theorem withOutputs_log (l : List LogEvent) (rs : List Reply) (s : State) : (s.withOutputs l rs).log = l := rfl
@[simp] theorem withOutputs_replies (l : List LogEvent) (rs : List Reply) (s : State) :
    (s.withOutputs l rs).replies = rs := rfl

/-- The state an operation leaves where it exists: its effect, with its events and its reply appended. -/
def afterOp (i : Instr) (s : State) : State :=
  (effect i s).withOutputs (s.log ++ events s.cfg i) (s.replies ++ [answer i s])

/-! ### The decomposition -/

/-- What a length write can change besides the outputs (42_dma.md R101, R106 to R108). -/
theorem effect_wrLength (v : Word) (s : State) :
    ∃ n m, effect (.wrLength v) s = ((s.latchLength v).setBitCount n).setMemory m ∧ (s.memory.Wf → m.Wf) ∧
      (s.cfg.sinkMode = .relay → n = s.bitCount) ∧ (s.cfg.sinkMode = .accumulate → m = s.memory) :=
  runTransfer_frame (s.latchLength v)

/-- The effect of an operation leaves the outputs alone. -/
theorem effect_outputs (i : Instr) (s : State) :
    (effect i s).log = s.log ∧ (effect i s).replies = s.replies := by
  cases i with
  | wrLength v => obtain ⟨n, m, h, -⟩ := effect_wrLength v s; rw [h]; exact ⟨rfl, rfl⟩
  | wrReset d => rw [effect]; split <;> exact ⟨rfl, rfl⟩
  | _ => exact ⟨rfl, rfl⟩

/-- An operation that logs nothing only adds its reply to its effect. -/
theorem afterOp_of_no_events {i : Instr} {s : State} (h : events s.cfg i = []) :
    afterOp i s = (effect i s).reply (answer i s) := by
  obtain ⟨hlog, hreplies⟩ := effect_outputs i s
  rw [afterOp, h, List.append_nil, ← hlog, ← hreplies]
  rfl

/-- Where an operation exists it completes, in the state `afterOp`. -/
theorem exec_of_existsIn {i : Instr} {s : State} (h : ExistsIn s.cfg.reg0Mode i) : exec i s = .next (afterOp i s) := by
  cases i with
  | rdControl | wrControl v | rdBitcount | wrDatain v =>
    rw [afterOp_of_no_events rfl]
    exact onlyInMode_of_mode h
  | rdReset w | rdReject a w | wrReject a w v => rfl
  | wrLength v => rw [afterOp_of_no_events rfl, exec_wrLength]; rfl
  | _ => rw [afterOp_of_no_events rfl]; rfl

/-- Where an operation does not exist it is refused (log 12). -/
theorem exec_of_not_existsIn {i : Instr} {s : State} (h : ¬ ExistsIn s.cfg.reg0Mode i) :
    exec i s = .refused .operationAbsent := by
  cases i with
  | rdControl | wrControl v | rdBitcount | wrDatain v => exact onlyInMode_of_other h
  | _ => exact absurd trivial h

theorem exec_eq_next_iff {i : Instr} {s t : State} :
    exec i s = .next t ↔ ExistsIn s.cfg.reg0Mode i ∧ t = afterOp i s := by
  by_cases h : ExistsIn s.cfg.reg0Mode i
  · rw [exec_of_existsIn h, Host.Outcome.next.injEq, eq_comm]
    exact (and_iff_right h).symm
  · rw [exec_of_not_existsIn h]
    exact iff_of_false nofun fun hn => h hn.1

/-- The device has exactly the operations that exist in its mode, operands aside. -/
theorem existsIn_of_wf {c : Cfg} {i : Instr} (h : i.Wf c = true) : ExistsIn c.reg0Mode i := by
  cases i with
  | rdControl | wrControl v | rdBitcount | wrDatain v => exact beq_iff_eq.1 h
  | _ => trivial

/-- No transaction decodes to an operation that does not exist (log 12). -/
theorem decode_ne_of_not_existsIn {c : Cfg} {i : Instr} (h : ¬ ExistsIn c.reg0Mode i) (tx : Transaction) :
    decode c tx ≠ .ok i :=
  fun hd => h (existsIn_of_wf (decode_wf hd).1)

end Sys2Proof.Machine
end

section
/-! PROOF. The invariant, and what one step takes from the host's queue (10_state.md section 2, 20_memory.md
section 6). -/

namespace Sys2Proof.Machine

/-! ### The invariant -/

/-- Every operation keeps the invariant: a length write stores masked bits, and the two fields that one `REG0_MODE`
cannot reach are written in the other only, or zeroed. -/
theorem exec_keeps_inv {i : Instr} {s t : State} (hs : Inv s) (h : exec i s = .next t) : Inv t := by
  obtain ⟨hmode, rfl⟩ := exec_eq_next_iff.1 h
  obtain ⟨hmem, hlen, hline, hcfg, hctl, hscr⟩ := hs
  cases i with
  | wrControl v => exact ⟨hmem, hlen, hline, hcfg, fun hd => absurd (hmode.symm.trans hd) Reg0Mode.noConfusion, hscr⟩
  | wrDatain v => exact ⟨hmem, hlen, hline, hcfg, hctl, fun hc => absurd (hmode.symm.trans hc) Reg0Mode.noConfusion⟩
  | wrLength v =>
    obtain ⟨n, m, heff, hm, -⟩ := effect_wrLength v s
    have hmask : (maskLength v).toNat < 2 ^ 26 := by rw [maskLength_toNat]; exact Nat.mod_lt _ (by decide)
    rw [afterOp, heff]
    exact ⟨hm hmem, hmask, hline, hcfg, hctl, hscr⟩
  | wrReset d =>
    rw [afterOp, effect]
    split
    · exact ⟨hmem, hlen, hline, hcfg, hctl, fun _ => rfl⟩
    · exact ⟨hmem, hlen, hline, hcfg, hctl, hscr⟩
  | _ => exact ⟨hmem, hlen, hline, hcfg, hctl, hscr⟩

/-- A device just created, reset or detached meets the invariant over any canonical memory. -/
theorem zeroDevice_inv {s : State} (hm : s.memory.Wf) {c : Cfg} (hc : c.Wf) (att : Bool) :
    Inv { s.zeroDevice with cfg := c, attached := att } :=
  ⟨hm, Nat.two_pow_pos 26, rfl, hc, fun _ => rfl, fun _ => rfl⟩

/-- Settles O7: an operation keeps the invariant, a host store keeps memory canonical, and the other moves leave
creation values. -/
theorem stepKeepsTheInvariant : Obligations.StepKeepsTheInvariant := by
  unfold Obligations.StepKeepsTheInvariant
  intro s t hs h
  rcases step_cases h with ⟨-, rfl⟩ | ⟨m, rest, -, hmove⟩
  · exact hs
  rcases hmove with ⟨tx, i, -, -, -, he⟩ | ⟨a, b, -, -, rfl⟩ | ⟨-, -, rfl⟩ | ⟨c, -, -, hc, rfl⟩ | ⟨-, -, rfl⟩
  · exact exec_keeps_inv (s := s.setPending rest) hs he
  all_goals obtain ⟨hmem, hrest⟩ := hs
  · exact ⟨Memory.writeByte_wf hmem a b, hrest⟩
  · exact zeroDevice_inv (s := s.setPending rest) hmem hrest.2.2.1 false
  · exact zeroDevice_inv (s := s.setPending rest) hmem hc true
  · exact zeroDevice_inv (s := s.setPending rest) hmem hrest.2.2.1 s.attached

/-- Settles O6: at reset memory lists nothing, the fields hold their creation values, and the configuration of this
hardware is well formed. -/
theorem resetMeetsTheInvariant : Obligations.ResetMeetsTheInvariant := by
  unfold Obligations.ResetMeetsTheInvariant
  have hcfg : Cfg.hardware.Wf := by decide
  exact zeroDevice_inv (s := State.reset) Memory.wf_nil hcfg true

/-! ### The step -/

/-- Settles O8: the decoder answers, and the device is there to run its operation. -/
theorem stepRunsTheDecodedOperation : Obligations.StepRunsTheDecodedOperation := by
  unfold Obligations.StepRunsTheDecodedOperation
  intro s tx rest i ha hp hd
  rw [step_move hp]
  exact issueTransaction_of_decode (s := s.setPending rest) ha hd

/-- What has the next state `u` exactly under `p` has a next state exactly under `p`. -/
theorem completes_iff_of_eq_next_iff {o : Host.Outcome State Fault Refusal} {p : Prop} {u : State}
    (h : ∀ t, o = .next t ↔ p ∧ t = u) : (∃ t, o = .next t) ↔ p :=
  ⟨fun ⟨t, ht⟩ => ((h t).1 ht).1, fun hp => ⟨u, (h u).2 ⟨hp, rfl⟩⟩⟩

/-- A transaction to an attached device completes exactly when it has the format of 30_encoding.md R50. -/
theorem issueTransaction_completes_iff {s : State} {tx : Transaction} :
    (∃ t, issueTransaction tx s = .next t) ↔ s.attached = true ∧ tx.Wf s.cfg := by
  constructor
  · rintro ⟨t, h⟩
    obtain ⟨ha, i, hd, -⟩ := issueTransaction_eq_next_iff.1 h
    exact ⟨ha, (decode_wf hd).2⟩
  · rintro ⟨ha, hwf⟩
    obtain ⟨i, hd⟩ := exists_decode_of_wf hwf
    obtain ⟨t, he⟩ := exists_exec_of_wf (s := s) (decode_wf hd).1
    exact ⟨t, issueTransaction_eq_next_iff.2 ⟨ha, i, hd, he⟩⟩

/-- Settles O9: each move's own condition for a next state is `State.Allows`. -/
theorem stepCompletesExactlyWhenAllowed : Obligations.StepCompletesExactlyWhenAllowed := by
  unfold Obligations.StepCompletesExactlyWhenAllowed
  refine ⟨fun s hp => step_idle hp, ?moves⟩
  case moves =>
    intro s m rest hp
    rw [step_move hp]
    cases m with
    | issue tx => exact issueTransaction_completes_iff (s := s.setPending rest)
    | store a b => exact completes_iff_of_eq_next_iff fun _ => hostStore_eq_next_iff
    | detach => exact completes_iff_of_eq_next_iff fun _ => detachDevice_eq_next_iff
    | create c => exact completes_iff_of_eq_next_iff fun _ => createDevice_eq_next_iff.trans and_assoc.symm
    | hardwareReset => exact completes_iff_of_eq_next_iff fun _ => hardwareReset_eq_next_iff

/-- Settles O10: no move but creation touches the configuration, and none touches the rest of the queue. -/
theorem stepTakesOneMoveInOrder : Obligations.StepTakesOneMoveInOrder := by
  unfold Obligations.StepTakesOneMoveInOrder
  intro s t h
  rcases step_cases h with ⟨hp, rfl⟩ | ⟨m, rest, hp, hmove⟩
  · exact ⟨by rw [hp]; rfl, absurd rfl⟩
  rw [hp, List.tail_cons, List.head?_cons]
  rcases hmove with ⟨tx, i, -, -, -, he⟩ | ⟨a, b, -, -, rfl⟩ | ⟨-, -, rfl⟩ | ⟨c, rfl, -, -, rfl⟩ | ⟨-, -, rfl⟩
  · obtain ⟨hcfg, -, hpending, -⟩ := exec_frame he
    exact ⟨hpending, absurd hcfg⟩
  · exact ⟨rfl, absurd rfl⟩
  · exact ⟨rfl, absurd rfl⟩
  · exact ⟨rfl, fun _ => ⟨c, rfl, rfl⟩⟩
  · exact ⟨rfl, absurd rfl⟩

end Sys2Proof.Machine
end

section
/-! PROOF. The family 30_encoding.md: the round trip between operations and transactions, the accepted accesses, and the
operation map. -/

namespace Sys2Proof

open Machine (DecodesTo)

/-! ### The offset-0x00 operations -/

theorem decodesTo_rdControl {c : Cfg} (hc : c.Wf) (hm : c.reg0Mode = .control) :
    DecodesTo c (encode c .rdControl) 0x000 .rdControl :=
  decodesTo_main_read hc rfl fun h => by simp only [Cfg.dispatchRead, h, hm]

theorem decodesTo_wrControl {c : Cfg} (hc : c.Wf) (hm : c.reg0Mode = .control) (v : Word) :
    DecodesTo c (encode c (.wrControl v)) 0x200 (.wrControl v) :=
  decodesTo_main_write hc rfl fun h => by simp only [Cfg.dispatchWrite, h, hm, wordOfBus_busOfWord]

theorem decodesTo_rdBitcount {c : Cfg} (hc : c.Wf) (hm : c.reg0Mode = .dataIn) :
    DecodesTo c (encode c .rdBitcount) 0x000 .rdBitcount :=
  decodesTo_main_read hc rfl fun h => by simp only [Cfg.dispatchRead, h, hm]

theorem decodesTo_wrDatain {c : Cfg} (hc : c.Wf) (hm : c.reg0Mode = .dataIn) (v : Word) :
    DecodesTo c (encode c (.wrDatain v)) 0x200 (.wrDatain v) :=
  decodesTo_main_write hc rfl fun h => by simp only [Cfg.dispatchWrite, h, hm, wordOfBus_busOfWord]

/-! ### The round trip -/

/-- Settles O11: every operation of a register decodes from its own access, and a REJECT operation stands for a
transaction that reaches none. -/
theorem decodeOfEncodeIsTheOperation : Obligations.DecodeOfEncodeIsTheOperation := by
  unfold Obligations.DecodeOfEncodeIsTheOperation
  intro c i hc hi
  cases i with
  | rdControl => exact (decodesTo_rdControl hc (beq_iff_eq.1 hi)).1
  | wrControl v => exact (decodesTo_wrControl hc (beq_iff_eq.1 hi) v).1
  | rdBitcount => exact decode_encode_rdBitcount hc (beq_iff_eq.1 hi)
  | wrDatain v => exact decode_encode_wrDatain hc (beq_iff_eq.1 hi) v
  | rdStatus => exact (decodesTo_rdStatus hc).1
  | wrStatus v => exact (decodesTo_wrStatus hc v).1
  | rdSrcaddr => exact (decodesTo_rdSrcaddr hc).1
  | wrSrcaddr v => exact decode_encode_wrSrcaddr hc v
  | rdLength => exact (decodesTo_rdLength hc).1
  | wrLength v => exact decode_encode_wrLength hc v
  | rdReset w => exact (decodesTo_rdReset hc w).1
  | wrReset d => exact decode_encode_wrReset hc d
  | rdReject a w =>
    simp only [Instr.Wf, Bool.and_eq_true, decide_eq_true_eq] at hi
    exact Machine.decode_read_of_unaccepted hi.1 hi.2
  | wrReject a w v =>
    simp only [Instr.Wf, Bool.and_eq_true, decide_eq_true_eq] at hi
    exact Machine.decode_write_of_unaccepted hi.1 hi.2

theorem resetWidth_bytes_ofBytes {w : Nat} (hw : w = 1 ∨ w = 2 ∨ w = 4) : (ResetWidth.ofBytes w).bytes = w := by
  rcases hw with rfl | rfl | rfl <;> rfl

/-- The operation a read is dispatched to names its address and its width. -/
theorem encode_dispatchRead (c : Cfg) (a w : Nat) : encode c (c.dispatchRead a w) = .read a w := by
  cases hreg : c.acceptedRegister a w with
  | none => rw [dispatchRead_of_unaccepted hreg, encode]
  | some r =>
    rcases acceptedRegister_eq_some hreg with
      ⟨rfl, ⟨rfl, rfl⟩ | ⟨rfl, rfl⟩ | ⟨rfl, rfl⟩ | ⟨rfl, rfl⟩⟩ | ⟨rfl, rfl, hw⟩
    · cases hm : c.reg0Mode <;> simp only [Cfg.dispatchRead, hreg, hm, encode]
    · simp only [Cfg.dispatchRead, hreg, encode]
    · simp only [Cfg.dispatchRead, hreg, encode]
    · simp only [Cfg.dispatchRead, hreg, encode]
    · simp only [Cfg.dispatchRead, hreg, encode, resetWidth_bytes_ofBytes hw]

/-- The operation a write is dispatched to names its address, its width and its value. -/
theorem encode_dispatchWrite (c : Cfg) {a w : Nat} {v : BusValue} (hv : v < 2 ^ (8 * w)) :
    encode c (c.dispatchWrite a w v) = .write a w v := by
  cases hreg : c.acceptedRegister a w with
  | none => rw [dispatchWrite_of_unaccepted v hreg, encode]
  | some r =>
    rcases acceptedRegister_eq_some hreg with
      ⟨rfl, ⟨rfl, rfl⟩ | ⟨rfl, rfl⟩ | ⟨rfl, rfl⟩ | ⟨rfl, rfl⟩⟩ | ⟨rfl, rfl, hw⟩
    · cases hm : c.reg0Mode <;> simp only [Cfg.dispatchWrite, hreg, hm, encode, busOfWord_wordOfBus hv]
    · simp only [Cfg.dispatchWrite, hreg, encode, busOfWord_wordOfBus hv]
    · simp only [Cfg.dispatchWrite, hreg, encode, busOfWord_wordOfBus hv]
    · simp only [Cfg.dispatchWrite, hreg, encode, busOfWord_wordOfBus hv]
    · obtain ⟨hbus, hbytes⟩ := resetData_toBus_ofBus hw hv
      simp only [Cfg.dispatchWrite, hreg, encode, hbus, hbytes]

/-- A write of the format of 30_encoding.md R50 carries `8 * width` bits. -/
theorem value_lt_of_wf {c : Cfg} {a w : Nat} {v : BusValue} (h : (Transaction.write a w v).Wf c) : v < 2 ^ (8 * w) := by
  simp only [Transaction.Wf, Cfg.formatError] at h
  split_ifs at h with _ _ hv
  exact Nat.not_le.1 hv

/-- No field of a transaction is lost in the operation it decodes to (30_encoding.md R51). -/
theorem encode_of_decode {c : Cfg} {tx : Transaction} {i : Instr} (h : decode c tx = .ok i) : encode c i = tx := by
  have hwf := (decode_wf h).2
  cases tx with
  | read a w =>
    cases (decode_read hwf).symm.trans h
    exact encode_dispatchRead c a w
  | write a w v =>
    cases (decode_write hwf).symm.trans h
    exact encode_dispatchWrite c (value_lt_of_wf hwf)

/-- Settles O12: the dispatcher is total on the format of R50, and what it answers names the whole transaction. -/
theorem everyTransactionDecodesAndEncodesBack : Obligations.EveryTransactionDecodesAndEncodesBack := by
  unfold Obligations.EveryTransactionDecodesAndEncodesBack
  intro c tx _ hwf
  obtain ⟨i, hd⟩ := Machine.exists_decode_of_wf hwf
  exact ⟨i, hd, (decode_wf hd).1, encode_of_decode hd⟩

/-! ### Inputs outside the format, and the accepted accesses -/

theorem decode_of_formatError {c : Cfg} {tx : Transaction} {e : DecodeError} (h : c.formatError tx = some e) :
    decode c tx = .error e := by
  simp only [decode, h]

/-- Settles O13: the three checks of the format are made in the order width, address, value. -/
theorem malformedInputsRejectedByName : Obligations.MalformedInputsRejectedByName := by
  unfold Obligations.MalformedInputsRejectedByName
  refine ⟨?width, ?address, ?value⟩
  case width =>
    intro c a w hw
    exact ⟨decode_of_formatError (if_pos hw), fun v => decode_of_formatError (if_pos hw)⟩
  case address =>
    intro c a w h1 h64 ha
    have hw : ¬ (w < 1 ∨ 64 < w) := by omega
    exact ⟨decode_of_formatError ((if_neg hw).trans (if_pos ha)),
      fun v => decode_of_formatError ((if_neg hw).trans (if_pos ha))⟩
  case value =>
    intro c a w v h1 h64 ha hv
    have hw : ¬ (w < 1 ∨ 64 < w) := by omega
    exact decode_of_formatError ((if_neg hw).trans ((if_neg (Nat.not_le.2 ha)).trans (if_pos hv)))

/-- A transaction that decodes to a REJECT operation of some access: that access reaches no register. -/
theorem acceptedRegister_of_decode_rdReject {c : Cfg} {tx : Transaction} {a w : Nat}
    (h : decode c tx = .ok (.rdReject a w)) : c.acceptedRegister a w = none := by
  have hi := (decode_wf h).1
  simp only [Instr.Wf, Bool.and_eq_true, decide_eq_true_eq] at hi
  exact hi.2

theorem acceptedRegister_of_decode_wrReject {c : Cfg} {tx : Transaction} {a w : Nat} {v : BusValue}
    (h : decode c tx = .ok (.wrReject a w v)) : c.acceptedRegister a w = none := by
  have hi := (decode_wf h).1
  simp only [Instr.Wf, Bool.and_eq_true, decide_eq_true_eq] at hi
  exact hi.2

/-- Settles O15: the declared accesses pass every check, and nothing else does. -/
theorem acceptedAccessesAreExactlyTheDeclared : Obligations.AcceptedAccessesAreExactlyTheDeclared := by
  unfold Obligations.AcceptedAccessesAreExactlyTheDeclared
  refine ⟨?accepted, ?reads, ?writes⟩
  case accepted =>
    intro c a w r hc
    refine ⟨acceptedRegister_eq_some, ?_⟩
    rintro (⟨rfl, ⟨rfl, rfl⟩ | ⟨rfl, rfl⟩ | ⟨rfl, rfl⟩ | ⟨rfl, rfl⟩⟩ | ⟨rfl, rfl, hw⟩)
    case inr => exact acceptedRegister_reset hc hw
    all_goals exact acceptedRegister_of_declared hc rfl
  case reads =>
    exact fun c a w hwf => ⟨Machine.decode_read_of_unaccepted hwf, acceptedRegister_of_decode_rdReject⟩
  case writes =>
    exact fun c a w v hwf => ⟨Machine.decode_write_of_unaccepted hwf, acceptedRegister_of_decode_wrReject⟩

/-! ### The operation decode picks -/

/-- The operation of an access, by its direction and the register it reaches (30_encoding.md R55, R60). -/
def registerOp (d : Direction) (m : Reg0Mode) : Option Register → Op
  | some .reg0 =>
    match d, m with
    | .read, .control => .rdControl
    | .read, .dataIn => .rdBitcount
    | .write, .control => .wrControl
    | .write, .dataIn => .wrDatain
  | some .status => if d = .read then .rdStatus else .wrStatus
  | some .srcaddr => if d = .read then .rdSrcaddr else .wrSrcaddr
  | some .length => if d = .read then .rdLength else .wrLength
  | some .reset => if d = .read then .rdReset else .wrReset
  | none => d.rejectOp

/-- The operation decode picks depends on the register the access reaches, the direction and `REG0_MODE` only. -/
theorem decode_op {c : Cfg} {tx : Transaction} {i : Instr} (h : decode c tx = .ok i) :
    i.op = registerOp tx.direction c.reg0Mode (c.acceptedRegister tx.addr tx.width) := by
  have hwf := (decode_wf h).2
  cases tx with
  | read a w =>
    cases (decode_read hwf).symm.trans h
    simp only [Cfg.dispatchRead, Transaction.addr, Transaction.width, Transaction.direction]
    rcases c.acceptedRegister a w with _ | r
    · rfl
    · cases r <;> cases c.reg0Mode <;> rfl
  | write a w v =>
    cases (decode_write hwf).symm.trans h
    simp only [Cfg.dispatchWrite, Transaction.addr, Transaction.width, Transaction.direction]
    rcases c.acceptedRegister a w with _ | r
    · rfl
    · cases r <;> cases c.reg0Mode <;> rfl

/-! ### The operation map -/

/-- The offsets the operation map names (30_encoding.md R60). -/
def mapOffsets : List Nat := [offReg0, offStatus, offSrcaddr, offLength]

/-- The rows of the operation map that take one key each. -/
def exactRows : List OpRow := opTable.take 12

/-- The catch-all rows of the operation map. -/
def rejectRows : List OpRow := opTable.drop 12

theorem exactRows_spec : ∀ row ∈ exactRows, row.mask = BitVec.allOnes 10 ∧ row.bits.toNat % 256 ∈ mapOffsets := by
  decide

theorem rejectRows_spec : ∀ row ∈ rejectRows, row.mask = 0x200 ∧ row.existsWhen = none := by decide

theorem keyOf_offset (d : Direction) (r : Window) {off : Nat} (h : off < 256) : (keyOf d r off).toNat % 256 = off := by
  have ho : (BitVec.ofNat 8 off).toNat = off := Nat.mod_eq_of_lt h
  rw [keyOf, BitVec.toNat_append, ← Nat.shiftLeft_add_eq_or_of_lt (BitVec.isLt _), ho, Nat.shiftLeft_eq]
  omega

/-- Bit 9 of the key is its direction (30_encoding.md R56). -/
theorem keyOf_and_directionMask (d : Direction) (r : Window) (off : Nat) :
    keyOf d r off &&& 0x200 = keyOf d .main 0 := by
  have hmask : (0x200 : Key) = 1#1 ++ 0#1 ++ 0#8 := by decide
  rw [hmask, keyOf, BitVec.and_append, BitVec.and_append, BitVec.and_zero, BitVec.and_zero]
  cases d <;> rfl

theorem declaredRegister_eq_none {off : Nat} (h : off ∉ mapOffsets) (r : Window) : r.declaredRegister off = none := by
  simp only [mapOffsets, List.mem_cons, List.not_mem_nil, or_false, not_or] at h
  obtain ⟨h0, h1, h2, h3⟩ := h
  cases r with
  | main => simp only [Window.declaredRegister, h0, h1, h2, h3, if_false]
  | reset => exact if_neg h0

/-- A key of an offset that no row names falls through to the REJECT row of its direction. -/
theorem lookupOp_of_unnamed (d : Direction) (m : Reg0Mode) (r : Window) {off : Nat} (hoff : off < 256)
    (h : off ∉ mapOffsets) : lookupOp m (keyOf d r off) = some d.rejectOp := by
  have hexact : exactRows.find? (fun row => row.takes m (keyOf d r off)) = none := by
    refine List.find?_eq_none.2 fun row hrow htakes => h ?_
    obtain ⟨hmask, hbits⟩ := exactRows_spec row hrow
    rw [OpRow.takes, hmask, BitVec.and_allOnes, Bool.and_eq_true, beq_iff_eq] at htakes
    rw [← keyOf_offset d r hoff, htakes.2]
    exact hbits
  have hreject : rejectRows.find? (fun row => row.takes m (keyOf d r off)) =
      rejectRows.find? (fun row => keyOf d .main 0 == row.bits) := by
    refine List.find?_congr fun row hrow => ?_
    obtain ⟨hmask, hexists⟩ := rejectRows_spec row hrow
    rw [OpRow.takes, OpRow.presentIn, hexists, hmask, keyOf_and_directionMask, Bool.true_and]
  have hsplit : opTable = exactRows ++ rejectRows := rfl
  rw [lookupOp, hsplit, List.find?_append, hexact, Option.none_or, hreject]
  cases d <;> rfl

theorem lookupOp_of_named (d : Direction) (m : Reg0Mode) (r : Window) :
    ∀ off ∈ mapOffsets, lookupOp m (keyOf d r off) = some (registerOp d m (r.declaredRegister off)) := by
  cases d <;> cases m <;> cases r <;> decide

/-- The rows of the map, tried top to bottom, pick by direction, `REG0_MODE` and register. -/
theorem lookupOp_keyOf (d : Direction) (m : Reg0Mode) (r : Window) {off : Nat} (hoff : off < 256) :
    lookupOp m (keyOf d r off) = some (registerOp d m (r.declaredRegister off)) := by
  by_cases h : off ∈ mapOffsets
  · exact lookupOp_of_named d m r off h
  · rw [lookupOp_of_unnamed d m r hoff h, declaredRegister_eq_none h, registerOp]

/-- A selected offset lies inside its window, so it fits the eight offset bits of the key (30_encoding.md R56). -/
theorem selectWindow_offset_lt {c : Cfg} (hmain : c.mainSpan ≤ 256) (hreset : c.resetSpan ≤ 256) {a off : Nat}
    {r : Window} (h : c.selectWindow a = some (r, off)) : off < 256 := by
  unfold Cfg.selectWindow at h
  split_ifs at h <;> cases h <;> omega

/-- Settles O14: the map read at the key of the access agrees with the register the access reaches, and without a key
both reject. -/
theorem decodeFollowsTheOperationMap : Obligations.DecodeFollowsTheOperationMap := by
  unfold Obligations.DecodeFollowsTheOperationMap
  intro c tx i _ hmain hreset hd
  rw [decode_op hd, Cfg.acceptedRegister, Cfg.tableOp, Cfg.formKey]
  cases hp : c.placeOf tx.addr tx.width with
  | none => rfl
  | some p =>
    obtain ⟨r, off⟩ := p
    have hoff := selectWindow_offset_lt hmain hreset (placeOf_eq_some.1 hp).1
    simp only [lookupOp_keyOf _ _ _ hoff, Option.getD_some]

/-- Settles O18: the ten words name accesses whose windows and offsets are numerals in this hardware's placement. -/
theorem tableWordsDecode : Obligations.TableWordsDecode := by
  unfold Obligations.TableWordsDecode
  decide

end Sys2Proof
end

section
/-! PROOF. The family 10_state.md, R23 and R25: what a transfer does depends on the block it reads and on the
configuration only, so neither hidden state nor outputs reach an operation's result. -/

namespace Sys2Proof.Machine

/-! ### What a transfer depends on -/

/-- Two states that a transfer reads alike. -/
structure SameSource (a b : State) : Prop where
  sourceAddress : a.sourceAddress = b.sourceAddress
  memory : a.memory = b.memory
  cfg : a.cfg = b.cfg

/-- Nothing added and nothing written. -/
theorem unchanged_eq {u : State} {m : Memory} (h : u.memory = m) :
    (u.setBitCount (u.bitCount + 0#64)).setMemory m = u := by
  rw [BitVec.add_zero, ← h]
  rfl

/-- What the sink does with the words: it adds a number to `bitCount` and leaves a memory, the same from every state
with this configuration and memory (42_dma.md R106, R107). -/
theorem sinkWords_uniform (ws : List Word) (s : State) :
    ∃ n m r, ∀ u : State, u.memory = s.memory → u.cfg = s.cfg →
      sinkWords ws u = ((u.setBitCount (u.bitCount + n)).setMemory m, r) := by
  cases hs : s.cfg.sinkMode with
  | accumulate =>
    refine ⟨BitVec.ofNat 64 (ws.map popcount32).sum, s.memory, .okay, fun u hu hc => ?_⟩
    rw [sinkWords_accumulate (by rw [hc, hs]), ← hu]
    rfl
  | relay =>
    by_cases hd : s.RelayWritable
    · refine ⟨0#64, relayedMemory s.cfg.relayDest ws s.memory, .okay, fun u hu hc => ?_⟩
      rw [sinkWords_relay (by rw [hc, hs]) (by rw [State.RelayWritable, hc]; exact hd), hu, hc, BitVec.add_zero]
      rfl
    · cases ws with
      | nil => exact ⟨0#64, s.memory, .okay, fun u hu _ => by rw [sinkWords, unchanged_eq hu]⟩
      | cons w ws =>
        refine ⟨0#64, s.memory, .dmaFailed, fun u hu hc => ?_⟩
        rw [sinkWords_relay_blocked (by rw [hc, hs]) (by rw [State.RelayWritable, hc]; exact hd)
          (List.cons_ne_nil w ws), unchanged_eq hu]

theorem runTransfer_of_not_blockReadable {s : State} (hr : ¬ s.BlockReadable (wordCount s.transferLength)) :
    s.runTransfer = (s, .dmaFailed) := by
  rcases runTransfer_cases s with ⟨h0, -⟩ | ⟨-, -, h⟩ | ⟨-, h, -⟩ | ⟨-, h, -⟩ | ⟨-, h, -⟩
  case inl => exact absurd (fun j hj => by omega) hr
  case inr.inl => exact h
  all_goals exact absurd h hr

/-- What a transfer does to `bitCount` and memory, and what it answers, is the same from every state that holds the same
block, length and configuration (42_dma.md R102 to R108). -/
theorem runTransfer_uniform (s : State) :
    ∃ n m r, ∀ u : State, SameSource u s → u.transferLength = s.transferLength →
      u.runTransfer = ((u.setBitCount (u.bitCount + n)).setMemory m, r) := by
  by_cases hr : s.BlockReadable (wordCount s.transferLength)
  · obtain ⟨n, m, r, h⟩ := sinkWords_uniform ((List.range (wordCount s.transferLength)).map s.blockWord) s
    refine ⟨n, m, r, fun u ⟨hsrc, hmem, hcfg⟩ hlen => ?_⟩
    have hblock : u.blockWord = s.blockWord := by funext i; simp only [State.blockWord, hsrc, hmem]
    rw [runTransfer_of_blockReadable (by rw [State.BlockReadable, hsrc, hcfg, hlen]; exact hr), hlen, hblock]
    exact h u hmem hcfg
  · refine ⟨0#64, s.memory, .dmaFailed, fun u ⟨hsrc, hmem, hcfg⟩ hlen => ?_⟩
    rw [runTransfer_of_not_blockReadable (by rw [State.BlockReadable, hsrc, hcfg, hlen]; exact hr),
      unchanged_eq hmem]

/-- The effect and the answer of a length write, from every state that holds the same block and configuration. -/
theorem wrLength_uniform (v : Word) (s : State) :
    ∃ n m r, ∀ u : State, SameSource u s →
      effect (.wrLength v) u = ((u.latchLength v).setBitCount (u.bitCount + n)).setMemory m ∧
      answer (.wrLength v) u = .write r := by
  obtain ⟨n, m, r, h⟩ := runTransfer_uniform (s.latchLength v)
  refine ⟨n, m, r, fun u ⟨hsrc, hmem, hcfg⟩ => ?_⟩
  rw [effect, answer, h (u.latchLength v) ⟨hsrc, hmem, hcfg⟩ rfl]
  exact ⟨rfl, rfl⟩

/-! ### Hidden state -/

theorem lowWord_eq_of_sameLowHalf {a b : Count} (h : sameLowHalf a b) : lowWord a = lowWord b :=
  BitVec.eq_of_toNat_eq (by simpa only [lowWord, BitVec.toNat_setWidth] using h)

/-- Adding the same number keeps the low halves equal: no carry comes down. -/
theorem sameLowHalf_add {a b : Count} (h : sameLowHalf a b) (n : Count) : sameLowHalf (a + n) (b + n) := by
  unfold sameLowHalf at *
  rw [BitVec.toNat_add, BitVec.toNat_add]
  omega

/-- Equal new outputs keep two states indistinguishable. -/
theorem SameToHost.withOutputs {a b : State} (h : SameToHost a b) (l : List LogEvent) (rs : List Reply) :
    SameToHost (a.withOutputs l rs) (b.withOutputs l rs) :=
  { h with log := rfl, replies := rfl }

theorem SameToHost.sameSource {a b : State} (h : SameToHost a b) : SameSource a b :=
  ⟨h.sourceAddress, h.memory, h.cfg⟩

/-- The reply of an operation that exists shows no hidden state (10_state.md R23). -/
theorem SameToHost.answer_eq {a b : State} (h : SameToHost a b) {i : Instr} (hi : ExistsIn a.cfg.reg0Mode i) :
    answer i a = answer i b := by
  cases i with
  | rdControl => rw [answer, answer, h.controlReg hi]
  | rdBitcount => rw [answer, answer, lowWord_eq_of_sameLowHalf (h.bitCount hi)]
  | rdStatus =>
    cases hm : a.cfg.statusMode with
    | idle => rw [answer, answer, statusValue_idle hm, statusValue_idle (h.cfg ▸ hm), h.cfg]
    | stored => rw [answer, answer, statusValue_stored hm, statusValue_stored (h.cfg ▸ hm), h.statusReg hm]
  | rdSrcaddr => rw [answer, answer, h.sourceAddress]
  | rdLength => rw [answer, answer, h.transferLength]
  | rdReject x w => rw [answer, answer, h.cfg]
  | wrLength v =>
    obtain ⟨n, m, r, huniform⟩ := wrLength_uniform v b
    rw [(huniform a h.sameSource).2, (huniform b ⟨rfl, rfl, rfl⟩).2]
  | _ => rfl

/-- The effect of an operation keeps two states indistinguishable: a hidden field goes to hidden fields only. -/
theorem SameToHost.effect {a b : State} (h : SameToHost a b) (i : Instr) :
    SameToHost (effect i a) (effect i b) := by
  cases i with
  | wrControl v => exact { h with controlReg := fun _ => rfl }
  | wrDatain v => exact { h with bitCount := fun hm => sameLowHalf_add (h.bitCount hm) _ }
  | wrStatus v => exact { h with statusReg := fun _ => rfl }
  | wrSrcaddr v => exact { h with sourceAddress := rfl }
  | wrLength v =>
    obtain ⟨n, m, r, huniform⟩ := wrLength_uniform v b
    rw [(huniform a h.sameSource).1, (huniform b ⟨rfl, rfl, rfl⟩).1]
    exact { h with transferLength := rfl, bitCount := fun hm => sameLowHalf_add (h.bitCount hm) n, memory := rfl }
  | wrReset d =>
    by_cases hd : resetRequested d = true
    · rw [Machine.effect, Machine.effect, if_pos hd, if_pos hd]
      exact { h with bitCount := fun _ => rfl }
    · rw [Machine.effect, Machine.effect, if_neg hd, if_neg hd]
      exact h
  | _ => exact h

theorem SameToHost.exec {a b a' : State} (h : SameToHost a b) {i : Instr} (he : exec i a = .next a') :
    ∃ b', exec i b = .next b' ∧ SameToHost a' b' := by
  obtain ⟨hi, rfl⟩ := exec_eq_next_iff.1 he
  refine ⟨_, exec_of_existsIn (h.cfg ▸ hi), ?_⟩
  rw [afterOp, afterOp, h.answer_eq hi, h.log, h.replies, h.cfg]
  exact (h.effect i).withOutputs _ _

theorem SameToHost.setPending {a b : State} (h : SameToHost a b) (p : List HostMove) :
    SameToHost (a.setPending p) (b.setPending p) :=
  { h with pending := rfl }

/-- Every field of the Device State at its creation value hides nothing. -/
theorem SameToHost.zeroDevice {a b : State} (h : SameToHost a b) : SameToHost a.zeroDevice b.zeroDevice :=
  { h with
    sourceAddress := rfl, transferLength := rfl, controlReg := fun _ => rfl, bitCount := fun _ => rfl
    statusReg := fun _ => rfl, interruptLine := rfl }

theorem SameToHost.withDevice {a b : State} (h : SameToHost a b) (c : Cfg) (att : Bool) :
    SameToHost { a.zeroDevice with cfg := c, attached := att } { b.zeroDevice with cfg := c, attached := att } :=
  { h.zeroDevice with
    controlReg := fun _ => rfl, bitCount := fun _ => rfl, statusReg := fun _ => rfl, cfg := rfl, attached := rfl }

/-- A move that has a meaning in one state has the same in an indistinguishable one. -/
theorem SameToHost.runMove {a b a' : State} (h : SameToHost a b) {m : HostMove} (hm : runMove m a = .next a') :
    ∃ b', runMove m b = .next b' ∧ SameToHost a' b' := by
  cases m with
  | issue tx =>
    obtain ⟨ha, i, hd, he⟩ := issueTransaction_eq_next_iff.1 hm
    obtain ⟨b', hb, hsame⟩ := h.exec he
    exact ⟨b', issueTransaction_eq_next_iff.2 ⟨h.attached ▸ ha, i, h.cfg ▸ hd, hb⟩, hsame⟩
  | store x v =>
    obtain ⟨hvalid, rfl⟩ := hostStore_eq_next_iff.1 hm
    refine ⟨_, hostStore_eq_next_iff.2 ⟨h.cfg ▸ hvalid, rfl⟩, ?_⟩
    rw [h.memory]
    exact { h with memory := rfl }
  | detach =>
    obtain ⟨ha, rfl⟩ := detachDevice_eq_next_iff.1 hm
    exact ⟨_, detachDevice_eq_next_iff.2 ⟨h.attached ▸ ha, rfl⟩, { h.zeroDevice with attached := rfl }⟩
  | create c =>
    obtain ⟨ha, hc, rfl⟩ := createDevice_eq_next_iff.1 hm
    exact ⟨_, createDevice_eq_next_iff.2 ⟨h.attached ▸ ha, hc, rfl⟩, h.withDevice c true⟩
  | hardwareReset =>
    obtain ⟨ha, rfl⟩ := hardwareReset_eq_next_iff.1 hm
    exact ⟨_, hardwareReset_eq_next_iff.2 ⟨h.attached ▸ ha, rfl⟩, h.zeroDevice⟩

/-- Settles O56: both states hold the same queue, and the oldest move keeps them indistinguishable. -/
theorem hiddenStateNeverReachesTheHost : Obligations.HiddenStateNeverReachesTheHost := by
  unfold Obligations.HiddenStateNeverReachesTheHost
  intro a b a' h hstep
  cases hp : a.pending with
  | nil =>
    cases (step_idle hp).symm.trans hstep
    exact ⟨b, step_idle (h.pending ▸ hp), h⟩
  | cons m rest =>
    rw [step_move hp] at hstep
    rw [step_move (h.pending ▸ hp)]
    exact (h.setPending rest).runMove hstep

end Sys2Proof.Machine
end

section
/-! PROOF. The rules over all operations (10_state.md R25 and R28, 20_memory.md R45, 60_exceptions.md R131,
40_register_file.md R79): what an operation writes, what it answers, and that outputs are never read. -/

namespace Sys2Proof.Machine

/-! ### Outputs -/

theorem sameSource_withOutputs (l : List LogEvent) (rs : List Reply) (s : State) : SameSource (s.withOutputs l rs) s :=
  ⟨rfl, rfl, rfl⟩

theorem effect_withOutputs (i : Instr) (l : List LogEvent) (rs : List Reply) (s : State) :
    effect i (s.withOutputs l rs) = (effect i s).withOutputs l rs := by
  cases i with
  | wrLength v =>
    obtain ⟨n, m, r, huniform⟩ := wrLength_uniform v s
    rw [(huniform _ (sameSource_withOutputs l rs s)).1, (huniform s ⟨rfl, rfl, rfl⟩).1]
    rfl
  | wrReset d => rw [effect, effect]; split <;> rfl
  | _ => rfl

theorem answer_withOutputs (i : Instr) (l : List LogEvent) (rs : List Reply) (s : State) :
    answer i (s.withOutputs l rs) = answer i s := by
  cases i with
  | wrLength v =>
    obtain ⟨n, m, r, huniform⟩ := wrLength_uniform v s
    rw [(huniform _ (sameSource_withOutputs l rs s)).2, (huniform s ⟨rfl, rfl, rfl⟩).2]
  | _ => rfl

/-- `o` appends the same events and replies to whatever the log and the replies hold, and is otherwise the same. -/
def AppendsOnly (o : State → Host.Outcome State Fault Refusal) (s t : State) (l : List LogEvent) (rs : List Reply) :
    Prop :=
  ∃ es ps, t.log = s.log ++ es ∧ t.replies = s.replies ++ ps ∧
    o (s.withOutputs l rs) = .next (t.withOutputs (l ++ es) (rs ++ ps))

theorem exec_appendsOnly {i : Instr} {s t : State} (h : exec i s = .next t) (l : List LogEvent) (rs : List Reply) :
    AppendsOnly (exec i) s t l rs := by
  obtain ⟨hi, rfl⟩ := exec_eq_next_iff.1 h
  refine ⟨events s.cfg i, [answer i s], rfl, rfl, exec_eq_next_iff.2 ⟨hi, ?_⟩⟩
  rw [afterOp, afterOp, effect_withOutputs, answer_withOutputs]
  rfl

/-- A move that is no transaction appends nothing. -/
theorem appendsOnly_of_silent {o : State → Host.Outcome State Fault Refusal} {s t : State} {l : List LogEvent}
    {rs : List Reply} (hl : t.log = s.log) (hr : t.replies = s.replies)
    (ho : o (s.withOutputs l rs) = .next (t.withOutputs l rs)) : AppendsOnly o s t l rs :=
  ⟨[], [], by rw [hl, List.append_nil], by rw [hr, List.append_nil], by rw [ho, List.append_nil, List.append_nil]⟩

theorem runMove_appendsOnly {m : HostMove} {s t : State} (h : runMove m s = .next t) (l : List LogEvent)
    (rs : List Reply) : AppendsOnly (runMove m) s t l rs := by
  cases m with
  | issue tx =>
    obtain ⟨ha, i, hd, he⟩ := issueTransaction_eq_next_iff.1 h
    obtain ⟨es, ps, hl, hr, hnext⟩ := exec_appendsOnly he l rs
    exact ⟨es, ps, hl, hr, issueTransaction_eq_next_iff.2 ⟨ha, i, hd, hnext⟩⟩
  | store a b =>
    obtain ⟨hvalid, rfl⟩ := hostStore_eq_next_iff.1 h
    exact appendsOnly_of_silent rfl rfl (hostStore_eq_next_iff.2 ⟨hvalid, rfl⟩)
  | detach =>
    obtain ⟨ha, rfl⟩ := detachDevice_eq_next_iff.1 h
    exact appendsOnly_of_silent rfl rfl (detachDevice_eq_next_iff.2 ⟨ha, rfl⟩)
  | create c =>
    obtain ⟨ha, hc, rfl⟩ := createDevice_eq_next_iff.1 h
    exact appendsOnly_of_silent rfl rfl (createDevice_eq_next_iff.2 ⟨ha, hc, rfl⟩)
  | hardwareReset =>
    obtain ⟨ha, rfl⟩ := hardwareReset_eq_next_iff.1 h
    exact appendsOnly_of_silent rfl rfl (hardwareReset_eq_next_iff.2 ⟨ha, rfl⟩)

theorem step_appendsOnly {s t : State} (h : step s = .next t) (l : List LogEvent) (rs : List Reply) :
    AppendsOnly step s t l rs := by
  cases hp : s.pending with
  | nil =>
    cases (step_idle hp).symm.trans h
    exact appendsOnly_of_silent rfl rfl (step_idle (s := s.withOutputs l rs) hp)
  | cons m rest =>
    rw [step_move hp] at h
    obtain ⟨es, ps, hl, hr, hnext⟩ := runMove_appendsOnly h l rs
    exact ⟨es, ps, hl, hr, (step_move (s := s.withOutputs l rs) hp).trans hnext⟩

/-- Settles O55: neither the effect nor the answer of an operation reads an output, and no other move does. -/
theorem outputsAreNeverRead : Obligations.OutputsAreNeverRead := by
  unfold Obligations.OutputsAreNeverRead
  exact fun s t l rs h => step_appendsOnly h l rs

/-! ### Replies -/

/-- A length write completes on the bus, whatever becomes of its transfer (42_dma.md R108). -/
theorem answer_wrLength (v : Word) (s : State) :
    answer (.wrLength v) s = .write .okay ∨ answer (.wrLength v) s = .write .dmaFailed := by
  rcases runTransfer_cases (s.latchLength v) with
    ⟨-, h⟩ | ⟨-, -, h⟩ | ⟨-, -, -, h⟩ | ⟨-, -, -, -, h⟩ | ⟨-, -, -, -, h⟩ <;> rw [answer, h]
  · exact .inl rfl
  · exact .inr rfl
  · exact .inl rfl
  · exact .inr rfl
  · exact .inl rfl

theorem answer_rejected_iff (i : Instr) (s : State) :
    (answer i s).response = .rejected ↔ i.op = .rdReject ∨ i.op = .wrReject := by
  cases i with
  | wrLength v => rcases answer_wrLength v s with h | h <;> simp [h, Reply.response, Instr.op]
  | _ => simp [answer, Reply.response, Instr.op]

theorem wrLength_of_answer_dmaFailed {i : Instr} {s : State} (h : (answer i s).response = .dmaFailed) :
    i.op = .wrLength := by
  cases i with
  | wrLength v => rfl
  | _ => cases h

theorem answer_is_read_iff (i : Instr) (s : State) (c : Cfg) :
    (∃ q w v, answer i s = .read q w v) ↔ (encode c i).direction = .read := by
  cases i <;> simp [answer, encode, Transaction.direction]

/-- Settles O53: the one reply is the operation's answer. -/
theorem oneReplyForEachOperation : Obligations.OneReplyForEachOperation := by
  unfold Obligations.OneReplyForEachOperation
  intro s t i h
  obtain ⟨-, rfl⟩ := exec_eq_next_iff.1 h
  exact ⟨answer i s, rfl, answer_rejected_iff i s, wrLength_of_answer_dmaFailed, answer_is_read_iff i s s.cfg⟩

/-! ### Writes -/

/-- Settles O52: the writes of each operation, a length write by its frame and a reset write by its two cases. -/
theorem fieldsAreWrittenOnlyByTheirOperations : Obligations.FieldsAreWrittenOnlyByTheirOperations := by
  unfold Obligations.FieldsAreWrittenOnlyByTheirOperations
  intro s t i h
  obtain ⟨hi, rfl⟩ := exec_eq_next_iff.1 h
  rw [afterOp]
  cases i with
  | wrControl v =>
    have hm : s.cfg.reg0Mode = .control := hi
    simp [effect, Instr.op, hm]
  | wrDatain v =>
    have hm : s.cfg.reg0Mode = .dataIn := hi
    simp [effect, State.accumulate, Instr.op, hm]
  | wrStatus v | wrSrcaddr v => simp [effect, Instr.op]
  | wrLength v =>
    obtain ⟨n, m, heff, -, hrelay, hacc⟩ := effect_wrLength v s
    rw [heff]
    cases hs : s.cfg.sinkMode with
    | accumulate => simp [State.latchLength, Instr.op, hacc hs]
    | relay => simp [State.latchLength, Instr.op, hrelay hs]
  | wrReset d => by_cases hd : resetRequested d = true <;> simp [effect, State.softReset, Instr.op, hd]
  | _ => simp [effect]

/-- A read has no effect (20_memory.md R45). -/
theorem effect_of_read {i : Instr} {c : Cfg} (h : (encode c i).direction = .read) (s : State) : effect i s = s := by
  cases i with
  | wrControl v | wrDatain v | wrStatus v | wrSrcaddr v | wrLength v | wrReset d | wrReject a w v => cases h
  | _ => rfl

/-- Every effect but those of `WR.DATAIN` and `WR.LENGTH` is idempotent (20_memory.md R45). -/
theorem effect_idem {i : Instr} (hdata : i.op ≠ .wrDatain) (hlen : i.op ≠ .wrLength) (s : State) :
    effect i (effect i s) = effect i s := by
  cases i with
  | wrDatain v => exact absurd rfl hdata
  | wrLength v => exact absurd rfl hlen
  | wrReset d => by_cases hd : resetRequested d = true <;> simp only [effect, hd] <;> rfl
  | _ => rfl

theorem sameDevice_withOutputs (s : State) (l l' : List LogEvent) (rs rs' : List Reply) :
    SameDevice (s.withOutputs l rs) (s.withOutputs l' rs') :=
  ⟨rfl, rfl, rfl, rfl, rfl, rfl, rfl⟩

/-- Settles O57: a read has no effect, and the repeated effect of the other operations is that of the first run. -/
theorem readsArePureAndRepeatableOperationsIdempotent :
    Obligations.ReadsArePureAndRepeatableOperationsIdempotent := by
  unfold Obligations.ReadsArePureAndRepeatableOperationsIdempotent
  refine ⟨?pure, ?idempotent⟩
  case pure =>
    intro s t i hread h
    obtain ⟨-, rfl⟩ := exec_eq_next_iff.1 h
    rw [afterOp, effect_of_read hread]
    exact ⟨sameDevice_withOutputs s _ s.log _ s.replies, rfl⟩
  case idempotent =>
    intro s t u i hdata hlen ht hu
    obtain ⟨-, rfl⟩ := exec_eq_next_iff.1 ht
    obtain ⟨-, rfl⟩ := exec_eq_next_iff.1 hu
    rw [afterOp, afterOp, effect_withOutputs, effect_idem hdata hlen]
    exact ⟨sameDevice_withOutputs (effect i s) _ _ _ _, rfl⟩

/-- No operation but `WR.LENGTH` writes memory (10_state.md R28). -/
theorem effect_memory {i : Instr} (hlen : i.op ≠ .wrLength) (s : State) : (effect i s).memory = s.memory := by
  cases i with
  | wrLength v => exact absurd rfl hlen
  | wrReset d => rw [effect]; split <;> rfl
  | _ => rfl

/-! ### The Register File -/

/-- An operation that is no REJECT operation reached a register, at width 4 unless it is the reset register. -/
theorem accepted_of_decode {c : Cfg} {tx : Transaction} {i : Instr} (hd : decode c tx = .ok i)
    (hrd : i.op ≠ .rdReject) (hwr : i.op ≠ .wrReject) :
    ∃ r, c.acceptedRegister tx.addr tx.width = some r ∧ (tx.width = 4 ∨ i.op = .rdReset ∨ i.op = .wrReset) := by
  have hop := decode_op hd
  cases hreg : c.acceptedRegister tx.addr tx.width with
  | none =>
    rw [hreg, registerOp] at hop
    cases hdir : tx.direction <;> rw [hdir] at hop
    · exact absurd hop hrd
    · exact absurd hop hwr
  | some r =>
    refine ⟨r, rfl, ?_⟩
    rcases acceptedRegister_eq_some hreg with ⟨hw, -⟩ | ⟨-, rfl, -⟩
    · exact .inl hw
    · rw [hop, hreg, registerOp]
      cases tx.direction
      · exact .inr (.inl rfl)
      · exact .inr (.inr rfl)

/-- Settles O30: the operations left are those of accepted accesses, which answer OKAY, and only `RD.RESET` of them
logs. -/
theorem registerFileContract : Obligations.RegisterFileContract := by
  unfold Obligations.RegisterFileContract
  intro s t tx i hd hlen hrd hwr h
  obtain ⟨r, hreg, hwidth⟩ := accepted_of_decode hd hrd hwr
  have hokay : (answer i s).response = .okay := by
    cases hr : (answer i s).response with
    | okay => rfl
    | rejected => exact absurd ((answer_rejected_iff i s).1 hr) (not_or.2 ⟨hrd, hwr⟩)
    | dmaFailed => exact absurd (wrLength_of_answer_dmaFailed hr) hlen
  obtain ⟨-, -, -, hline⟩ := exec_frame h
  have hlog := exec_log_frame hrd hwr (h := h)
  obtain ⟨-, rfl⟩ := exec_eq_next_iff.1 h
  refine ⟨⟨r, hreg⟩, fun hnr hnw => hwidth.resolve_right (not_or.2 ⟨hnr, hnw⟩), ⟨answer i s, rfl, hokay⟩, hlog, hline,
    fun a => ?_⟩
  rw [afterOp, withOutputs_memory, effect_memory hlen]

/-! ### The frame of a length write -/

theorem exec_wrLength_memory_outside {v : Word} {s t : State} (h : exec (.wrLength v) s = .next t) {a : Nat}
    (ha : a < s.cfg.relayDest ∨ s.cfg.relayDest + 4 ≤ a) : t.memory.readByte a = s.memory.readByte a := by
  rcases exec_wrLength_cases h with
    ⟨-, rfl⟩ | ⟨-, -, rfl⟩ | ⟨-, -, -, rfl⟩ | ⟨-, -, -, -, rfl⟩ | ⟨-, -, -, -, rfl⟩
  case inr.inr.inr.inr => exact relayedMemory_outside ha _
  all_goals rfl

/-- Settles O41: the shared frame of a transfer, and the relay's frame in memory. -/
theorem lengthWriteFrame : Obligations.LengthWriteFrame := by
  unfold Obligations.LengthWriteFrame
  intro s t v h
  have houtside := fun a => exec_wrLength_memory_outside h (a := a)
  obtain ⟨n, m, r, rfl, -, hrelay, hacc⟩ := exec_wrLength_frame h
  exact ⟨rfl, rfl, rfl, rfl, rfl, rfl, rfl, rfl, rfl, fun hs a => congrArg (Memory.readByte · a) (hacc hs),
    fun hs => ⟨hrelay hs, houtside⟩⟩

end Sys2Proof.Machine
end

section
/-! PROOF. The family 40_register_file.md, R70 to R73: the offset-0x00 operations of the two modes. -/

namespace Sys2Proof.Machine

/-- No operation but `WR.CONTROL` changes `controlReg` (40_register_file.md R70). -/
theorem exec_controlReg_frame {i : Instr} {s t : State} (hi : ∀ v, i ≠ .wrControl v) (h : exec i s = .next t) :
    t.controlReg = s.controlReg := by
  obtain ⟨hcontrol, -⟩ := fieldsAreWrittenOnlyByTheirOperations s t i h
  by_contra hne
  cases i with
  | wrControl v => exact hi v rfl
  | _ => cases (hcontrol hne).1

/-- The low half of the count, as the bus carries it (92_eei_decisions.md D9). -/
theorem lowWord_toNat (n : Count) : (lowWord n).toNat = n.toNat % 2 ^ 32 := BitVec.toNat_setWidth 32 n

/-- Settles O19: the read exists in CONTROL mode only and has no effect; `WR.CONTROL` alone writes the register. -/
theorem readControlReturnsTheStoredValue : Obligations.ReadControlReturnsTheStoredValue := by
  unfold Obligations.ReadControlReturnsTheStoredValue
  refine ⟨?read, ?absent, ?decodes, ?creation, ?write, ?frame⟩
  case read => exact fun s hm => exec_rdControl_eq_next_iff.2 ⟨hm, rfl⟩
  case absent => exact fun s hm => ⟨exec_of_not_existsIn hm, decode_ne_of_not_existsIn hm⟩
  case decodes => exact fun c hc hm => decodesTo_rdControl hc hm
  case creation => exact fun c hm => exec_rdControl_eq_next_iff.2 ⟨hm, rfl⟩
  case write =>
    intro s t v h
    obtain ⟨-, rfl⟩ := exec_wrControl_eq_next_iff.1 h
    rfl
  case frame => exact fun s t i hi h => exec_controlReg_frame hi h

/-- Settles O20: the write exists in CONTROL mode only, and its next state is the stored value with its reply. -/
theorem writeControlStoresAndNothingElse : Obligations.WriteControlStoresAndNothingElse := by
  unfold Obligations.WriteControlStoresAndNothingElse
  refine ⟨?write, ?absent, ?decodes⟩
  case write => exact fun s v hm => exec_wrControl_eq_next_iff.2 ⟨hm, rfl⟩
  case absent => exact fun s v hm => ⟨exec_of_not_existsIn hm, decode_ne_of_not_existsIn hm⟩
  case decodes => exact fun c v hc hm => decodesTo_wrControl hc hm v

/-- In DATA_IN mode the count read is the low half of `bitCount` (40_register_file.md R72). -/
theorem exec_rdBitcount_of_dataIn {s : State} (hm : s.cfg.reg0Mode = .dataIn) :
    exec .rdBitcount s = .next (s.answerRead .okay 4 (s.bitCount.toNat % 2 ^ 32)) := by
  rw [← lowWord_toNat]
  exact exec_rdBitcount_eq_next_iff.2 ⟨hm, rfl⟩

/-- Settles O21: the read exists in DATA_IN mode only; creation and a non-zero reset write leave the count at 0. -/
theorem readBitCountReturnsTheLowHalf : Obligations.ReadBitCountReturnsTheLowHalf := by
  unfold Obligations.ReadBitCountReturnsTheLowHalf
  refine ⟨?read, ?absent, ?decodes, ?creation, ?afterReset⟩
  case read => exact fun s hm => exec_rdBitcount_of_dataIn hm
  case absent => exact fun s hm => ⟨exec_of_not_existsIn hm, decode_ne_of_not_existsIn hm⟩
  case decodes => exact fun c hc hm => decodesTo_rdBitcount hc hm
  case creation => exact fun c hm => exec_rdBitcount_of_dataIn (s := State.creation c) hm
  case afterReset =>
    intro s t d hm hd h
    cases (exec_wrReset_of_ne_zero hd s).symm.trans h
    exact exec_rdBitcount_of_dataIn (s := s.softReset.answerWrite .okay) hm

/-- In DATA_IN mode a data-in write adds its 1 bits (40_register_file.md R73). -/
theorem exec_wrDatain_of_dataIn {s : State} (hm : s.cfg.reg0Mode = .dataIn) (v : Word) :
    exec (.wrDatain v) s = .next (((s.setWriteScratch v).setBitCount
      (BitVec.ofNat 64 (s.bitCount.toNat + popcount32 v))).answerWrite .okay) := by
  rw [BitVec.ofNat_add, BitVec.ofNat_toNat, BitVec.setWidth_eq]
  exact exec_wrDatain_eq_next_iff.2 ⟨hm, rfl⟩

/-- Settles O22: `popcount32` is the sum over the bit positions, and the write exists in DATA_IN mode only. -/
theorem writeDataInCountsSetBits : Obligations.WriteDataInCountsSetBits := by
  unfold Obligations.WriteDataInCountsSetBits
  refine ⟨?write, ?absent, ?decodes⟩
  case write =>
    intro s v hm
    rw [← countP_eq_sum_map_toNat]
    exact exec_wrDatain_of_dataIn hm v
  case absent => exact fun s v hm => ⟨exec_of_not_existsIn hm, decode_ne_of_not_existsIn hm⟩
  case decodes => exact fun c v hc hm => decodesTo_wrDatain hc hm v

end Sys2Proof.Machine
end

section
/-! PROOF. The families 41_popcount.md R94, 10_state.md R19 and 70_reset_and_hazards.md R153: what runs of transactions
leave in `bitCount`. -/

namespace Sys2Proof.Machine

/-- A run over a queue takes its first transaction, decodes it and runs the operation. -/
theorem run_queue_cons {s t : State} {c : Cfg} {i : Instr} (txs : List Transaction) (k : Nat) (ha : s.attached = true)
    (hcfg : s.cfg = c) (hd : decode c (encode c i) = .ok i) (he : exec i (s.queue txs) = .next (t.queue txs)) :
    Sys2Proof.core.run (k + 1) (s.queue (encode c i :: txs)) = Sys2Proof.core.run k (t.queue txs) := by
  subst hcfg
  exact core_run_succ_of_step ((step_queue_cons txs ha hd).trans he) k

theorem run_dataIn_writes (ws : List Word) {s : State} (ha : s.attached = true) (hc : s.cfg.Wf)
    (hm : s.cfg.reg0Mode = .dataIn) :
    ∃ t, Sys2Proof.core.run ws.length (s.queue (ws.map fun w => encode s.cfg (.wrDatain w))) = .next t ∧
      State.bitCount t = BitVec.ofNat 64 (s.bitCount.toNat + (ws.map popcount32).sum) := by
  induction ws generalizing s with
  | nil => exact ⟨s.queue [], rfl, by simp [State.queue]⟩
  | cons w ws ih =>
    obtain ⟨t, hrun, hcount⟩ := ih (s := ((s.setWriteScratch w).setBitCount
      (BitVec.ofNat 64 (s.bitCount.toNat + popcount32 w))).answerWrite .okay) ha hc hm
    refine ⟨t, (run_queue_cons _ _ ha rfl (decode_encode_wrDatain hc hm w) ?_).trans hrun, hcount.trans ?_⟩
    · exact exec_wrDatain_of_dataIn (s := s.queue _) hm w
    · refine BitVec.eq_of_toNat_eq ?_
      simp [State.answerWrite, Nat.add_assoc]

/-- Settles O49, by induction on the list: each write adds its own count to what the earlier ones left. -/
theorem dataInWritesAccumulate : Obligations.DataInWritesAccumulate := by
  unfold Obligations.DataInWritesAccumulate
  exact fun s ws ha hc hm => run_dataIn_writes ws ha hc hm

/-- A growth, wrapping or not, raises the count by at most what one operation can add (10_state.md R19). -/
theorem GrowsTo.toNat_le_add {a b : Count} (h : GrowsTo a b) : b.toNat ≤ a.toNat + maxIncrement := by
  obtain ⟨n, hn, rfl⟩ := h
  rw [BitVec.toNat_add, BitVec.toNat_ofNat, Nat.add_mod_mod]
  exact (Nat.mod_le _ _).trans (Nat.add_le_add_left hn _)

theorem exec_wrDatain_bitCount_le {v : Word} {s t : State} (h : exec (.wrDatain v) s = .next t) :
    t.bitCount.toNat ≤ s.bitCount.toNat + 32 := by
  obtain ⟨hm, -⟩ := exec_wrDatain_eq_next_iff.1 h
  cases (exec_wrDatain_of_dataIn hm v).symm.trans h
  refine (BitVec.toNat_ofNat _ _).le.trans ((Nat.mod_le _ _).trans ?_)
  exact Nat.add_le_add_left (popcount32_le v) _

/-- Settles O50: every operation but a non-zero reset write only adds. -/
theorem bitCountNeverDecreasesBetweenResets : Obligations.BitCountNeverDecreasesBetweenResets := by
  unfold Obligations.BitCountNeverDecreasesBetweenResets
  intro s t i h hreset hwrap
  have hgrows : GrowsTo s.bitCount t.bitCount := by
    rcases exec_growsTo_or_reset h with hgrows | ⟨d, rfl, hd⟩
    · exact hgrows
    · exact absurd (hreset d rfl) hd
  refine ⟨hgrows.toNat_le hwrap, hgrows.toNat_le_add, ?_⟩
  rintro v rfl
  exact exec_wrDatain_bitCount_le h

/-- A soft reset, a source address and a length, written in this order: the count is that of the block alone
(70_reset_and_hazards.md R153). -/
def afterMeasuring (src len : Word) (s : State) : State :=
  let s₁ := s.softReset.answerWrite .okay
  let s₂ := (s₁.setSourceAddress src).answerWrite .okay
  ((s₂.latchLength len).setBitCount
    (s₂.bitCount + BitVec.ofNat 64 (s₂.blockBits (wordsRequested len)))).answerWrite .okay

/-- The run of `SOFTRESET` and `DMA src, len` over a readable block (30_encoding.md R65). -/
theorem run_measuring {s : State} {src len : Word} (ha : s.attached = true) (hc : s.cfg.Wf)
    (hs : s.cfg.sinkMode = .accumulate)
    (hr : ({ s with sourceAddress := src } : State).BlockReadable (wordsRequested len)) (txs : List Transaction)
    (k : Nat) :
    Sys2Proof.core.run (k + 3) (s.queue (encode s.cfg (.wrReset (.word 1)) :: encode s.cfg (.wrSrcaddr src) ::
      encode s.cfg (.wrLength len) :: txs)) = Sys2Proof.core.run k ((afterMeasuring src len s).queue txs) := by
  let s₁ := s.softReset.answerWrite .okay
  let s₂ := (s₁.setSourceAddress src).answerWrite .okay
  have hreset := run_queue_cons (s := s) (t := s₁)
    (encode s.cfg (.wrSrcaddr src) :: encode s.cfg (.wrLength len) :: txs) (k + 2) ha rfl
    (decode_encode_wrReset hc (.word 1)) (exec_wrReset_of_ne_zero (by decide) _)
  have hsource := run_queue_cons (s := s₁) (t := s₂) (encode s.cfg (.wrLength len) :: txs) (k + 1) ha rfl
    (decode_encode_wrSrcaddr hc src) (exec_wrSrcaddr src _)
  have hlength := run_queue_cons (s := s₂) (t := afterMeasuring src len s) txs k ha rfl
    (decode_encode_wrLength hc len) (exec_wrLength_accumulate (s := s₂.queue txs) hs hr)
  exact hreset.trans (hsource.trans hlength)

theorem afterMeasuring_bitCount (src len : Word) (s : State) :
    (afterMeasuring src len s).bitCount =
      BitVec.ofNat 64 (({ s with sourceAddress := src } : State).blockBits (wordsRequested len)) :=
  BitVec.zero_add _

theorem afterMeasuring_frame (src len : Word) (s : State) :
    (afterMeasuring src len s).cfg = s.cfg ∧ (afterMeasuring src len s).attached = s.attached ∧
      (afterMeasuring src len s).memory = s.memory ∧ (afterMeasuring src len s).log = s.log := by
  simp [afterMeasuring, State.softReset, State.answerWrite, State.latchLength]

theorem afterMeasuring_replies (src len : Word) (s : State) :
    (afterMeasuring src len s).replies = s.replies ++ [Reply.write .okay, Reply.write .okay, Reply.write .okay] := by
  simp [afterMeasuring, State.softReset, State.answerWrite, State.latchLength]

/-- A 32-bit read of a block's count loses nothing: no block has `2^32` bits (20_memory.md R46). -/
theorem blockBits_low_half (s : State) (len : Word) :
    (BitVec.ofNat 64 (s.blockBits (wordsRequested len))).toNat % 2 ^ 32 = s.blockBits (wordsRequested len) := by
  have hbits : s.blockBits (wordsRequested len) < 2 ^ 32 := (blockBits_wordsRequested_le s len).trans_lt (by decide)
  rw [BitVec.toNat_ofNat, Nat.mod_mod_of_dvd _ (Nat.pow_dvd_pow 2 (by decide)), Nat.mod_eq_of_lt hbits]

theorem exec_rdBitcount_queue {s : State} (hm : s.cfg.reg0Mode = .dataIn) (txs : List Transaction) :
    exec .rdBitcount (s.queue txs) = .next ((s.answerRead .okay 4 (s.bitCount.toNat % 2 ^ 32)).queue txs) :=
  exec_rdBitcount_of_dataIn (s := s.queue txs) hm

/-- Settles O51: the transfer starts from a count of 0, and the read shows all of the block's count. -/
theorem measuringABlockReadsItsBitCount : Obligations.MeasuringABlockReadsItsBitCount := by
  unfold Obligations.MeasuringABlockReadsItsBitCount
  intro s src len ha hc hm hs hr
  obtain ⟨hcfg, hattached, hmemory, hlog⟩ := afterMeasuring_frame src len s
  have hread := run_queue_cons [] 0 (hattached.trans ha) hcfg (decode_encode_rdBitcount hc hm)
    (exec_rdBitcount_queue (hcfg.symm ▸ hm) [])
  rw [afterMeasuring_bitCount, blockBits_low_half] at hread
  refine ⟨_, (run_measuring ha hc hs hr _ 1).trans hread, ?_, hmemory, hlog⟩
  exact (congrArg (· ++ _) (afterMeasuring_replies src len s)).trans (List.append_assoc _ _ _)

end Sys2Proof.Machine
end

section
/-! PROOF. The families 20_memory.md R36, R39, R40 and 42_dma.md R109: block accesses, little-endian words, and the
engine's state machine. -/

namespace Sys2Proof.Machine

/-- Settles O44: the block's validity decides, and the bytes are read in ascending order. -/
theorem memReadIsAllOrNothing : Obligations.MemReadIsAllOrNothing := by
  unfold Obligations.MemReadIsAllOrNothing
  refine ⟨?reads, ?fails, ?above⟩
  case reads =>
    intro s addr n _ hvalid
    refine ⟨_, memRead_eq_some_iff.2 ⟨hvalid, rfl⟩, by simp, fun j hj => ?_⟩
    rw [List.getElem?_map, List.getElem?_range hj, Option.map_some]
  case fails => exact fun s addr n hinvalid => memRead_eq_none_iff.2 hinvalid
  case above =>
    intro c a ha
    refine Bool.eq_false_iff.2 fun hvalid => ?_
    exact absurd (Cfg.isValid_iff.1 hvalid).1 (Nat.not_lt.2 ha)

/-- Settles O45: the block's validity decides, and a block write is read back inside the block only. -/
theorem memWriteIsAllOrNothing : Obligations.MemWriteIsAllOrNothing := by
  unfold Obligations.MemWriteIsAllOrNothing
  refine ⟨?writes, ?fails⟩
  case writes =>
    intro s addr v hm hvalid
    refine ⟨s.memory.writeBytes addr v, memWrite_eq_some_iff.2 ⟨hvalid, rfl⟩, Memory.writeBytes_wf hm addr v,
      fun j hj => ?_, fun a ha => Memory.readByte_writeBytes_outside ha⟩
    rw [Memory.readByte_writeBytes_inside hm hj, List.getElem?_eq_getElem hj]
  case fails => exact fun s addr v hinvalid => memWrite_eq_none_iff.2 hinvalid

/-- A word is assembled from its own four bytes (20_memory.md R40). -/
theorem le32_extractLsb' (w : Word) :
    le32 (w.extractLsb' 0 8) (w.extractLsb' 8 8) (w.extractLsb' 16 8) (w.extractLsb' 24 8) = w := by
  have hw := w.isLt
  apply BitVec.eq_of_toNat_eq
  simp only [le32_toNat, BitVec.extractLsb'_toNat, Nat.shiftRight_eq_div_pow]
  omega

/-- Settles O47: assembling and taking apart are inverse. -/
theorem wordsAreLittleEndian : Obligations.WordsAreLittleEndian := by
  unfold Obligations.WordsAreLittleEndian
  exact ⟨fun b0 b1 b2 b3 => ⟨le32_toNat b0 b1 b2 b3, bytesLE32_le32 b0 b1 b2 b3⟩,
    fun w => ⟨_, _, _, _, rfl, le32_extractLsb' w⟩⟩

/-! ### The engine -/

theorem engineRun_idle (k : Nat) (s : State) : engineRun k (.idle, s) = (.idle, s) := by
  induction k with
  | zero => rfl
  | succ k ih => exact ih

theorem engineRun_done {k : Nat} (hk : 1 ≤ k) (s : State) (r : Response) :
    engineRun k (.done r, s) = (.idle, answerTransfer (s, r)) := by
  obtain ⟨k, rfl⟩ : ∃ j, k = j + 1 := ⟨k - 1, by omega⟩
  exact engineRun_idle k (s.answerWrite r)

/-- Where SINK goes when `i` of `n` words are delivered (42_dma.md R109). -/
def sinkPhase (buf : List Byte) (n i : Nat) : EnginePhase := if i < n then .sink buf n i else .done .okay

theorem engineStep_sink {buf : List Byte} {n i : Nat} {s s' : State} (h : s.sinkWord (wordAt buf i) = some s') :
    engineStep (.sink buf n i, s) = (sinkPhase buf n (i + 1), s') := by
  simp only [engineStep, h, sinkPhase]
  split <;> rfl

theorem engineStep_sink_failed {buf : List Byte} {n i : Nat} {s : State} (h : s.sinkWord (wordAt buf i) = none) :
    engineStep (.sink buf n i, s) = (.done .dmaFailed, s) := by
  simp only [engineStep, h]

/-- From word `i` with `m` words to go, the engine delivers them in order and stops at the first that fails. -/
theorem engineRun_sink (buf : List Byte) (m i : Nat) (s : State) {k : Nat} (hk : m + 1 ≤ k) :
    engineRun k (sinkPhase buf (i + m) i, s) =
      (.idle, answerTransfer (sinkWords ((List.range' i m).map (wordAt buf)) s)) := by
  induction m generalizing i s k with
  | zero =>
    rw [sinkPhase, if_neg (by omega)]
    exact engineRun_done hk s .okay
  | succ m ih =>
    obtain ⟨k, rfl⟩ : ∃ j, k = j + 1 := ⟨k - 1, by omega⟩
    rw [sinkPhase, if_pos (by omega), engineRun, List.range'_succ, List.map_cons, sinkWords]
    cases hw : s.sinkWord (wordAt buf i) with
    | none =>
      rw [engineStep_sink_failed hw]
      exact engineRun_done (by omega) s .dmaFailed
    | some s' =>
      rw [engineStep_sink hw, show i + (m + 1) = i + 1 + m by omega]
      exact ih (i + 1) s' (by omega)

/-- The words SINK takes from the buffer are the block's (42_dma.md R105). -/
theorem wordAt_block (s : State) {n i : Nat} (h : i < n) :
    wordAt ((List.range (4 * n)).map fun j => s.memory.readByte (s.sourceAddress.toNat + j)) i = s.blockWord i :=
  wordAt_range (fun j => s.memory.readByte (s.sourceAddress.toNat + j)) h

/-- From FETCH the engine reads the block, or fails, and delivers its words. -/
theorem engineRun_fetch {s : State} (hn : 0 < wordCount s.transferLength) {k : Nat}
    (hk : wordCount s.transferLength + 2 ≤ k) :
    engineRun k (.fetch (wordCount s.transferLength), s) = (.idle, answerTransfer s.runTransfer) := by
  obtain ⟨k, rfl⟩ : ∃ j, k = j + 1 := ⟨k - 1, by omega⟩
  rw [engineRun, engineStep]
  by_cases hr : s.BlockReadable (wordCount s.transferLength)
  · have hread := memRead_eq_some_iff.2 ⟨hr, rfl⟩
    have hsink := engineRun_sink ((List.range (4 * wordCount s.transferLength)).map fun j =>
      s.memory.readByte (s.sourceAddress.toNat + j)) (wordCount s.transferLength) 0 s (k := k) (by omega)
    rw [sinkPhase, Nat.zero_add, if_pos hn, ← List.range_eq_range',
      List.map_congr_left fun i hi => wordAt_block s (List.mem_range.1 hi)] at hsink
    rw [runTransfer_of_blockReadable hr]
    simp only [hread]
    exact hsink
  · have hread : s.memRead s.sourceAddress.toNat (4 * wordCount s.transferLength) = none := by
      rw [memRead_eq_none_iff]
      simpa [State.BlockReadable] using hr
    rw [runTransfer_of_not_blockReadable hr]
    simp only [hread]
    exact engineRun_done (by omega) s .dmaFailed

theorem engineRun_latch (v : Word) (s : State) {k : Nat} (hk : wordsRequested v + 3 ≤ k) :
    engineRun k (.latch v, s) = (.idle, answerTransfer (s.latchLength v).runTransfer) := by
  have hn : wordCount (s.latchLength v).transferLength = wordsRequested v := wordCount_maskLength v
  obtain ⟨k, rfl⟩ : ∃ j, k = j + 1 := ⟨k - 1, by omega⟩
  rw [engineRun, engineStep]
  split
  case isTrue h0 =>
    have hrun : (s.latchLength v).runTransfer = (s.latchLength v, .okay) := by
      rcases runTransfer_cases (s.latchLength v) with ⟨-, h⟩ | h
      · exact h
      · omega
    rw [hrun]
    exact engineRun_done (by omega) _ .okay
  case isFalse hpos => exact engineRun_fetch (Nat.pos_of_ne_zero hpos) (by omega)

/-- Settles O43: the engine from LATCH ends in the state that `WR.LENGTH` answers. -/
theorem engineStateMachineRefinesTheLengthWrite : Obligations.EngineStateMachineRefinesTheLengthWrite := by
  unfold Obligations.EngineStateMachineRefinesTheLengthWrite
  intro s t v k h hk
  cases (exec_wrLength v s).symm.trans h
  exact engineRun_latch v s hk

end Sys2Proof.Machine
end

section
/-! PROOF. The families 70_reset_and_hazards.md R150 to R152 and 92_eei_decisions.md D24, D28, D30: the host's moves
that are no transactions. -/

namespace Sys2Proof.Machine

/-- Settles O2: creation with a well-formed configuration is `zeroDevice` with that configuration, and another is
refused. -/
theorem createDeviceZeroesEveryRegister : Obligations.CreateDeviceZeroesEveryRegister := by
  unfold Obligations.CreateDeviceZeroesEveryRegister
  intro s c rest ha hp
  rw [step_move hp]
  have hdetached : ¬ (s.setPending rest).attached = true := by simp [ha]
  refine ⟨fun hc => createDevice_eq_next_iff.2 ⟨ha, hc, rfl⟩, fun hc => ?_⟩
  rw [runMove, createDevice, if_neg hdetached, if_neg hc]

/-- Settles O3: detachment leaves no device to answer, and creation leaves nothing of the old one. -/
theorem detachmentEndsTheDevice : Obligations.DetachmentEndsTheDevice := by
  unfold Obligations.DetachmentEndsTheDevice
  refine ⟨?detaches, ?refused, ?recreated⟩
  case detaches =>
    intro s rest ha hp
    rw [step_move hp]
    exact ⟨_, detachDevice_eq_next_iff.2 ⟨ha, rfl⟩, rfl, rfl, rfl, rfl⟩
  case refused =>
    intro s tx rest ha hp
    have hdetached : ¬ (s.setPending rest).attached = true := by simp [ha]
    rw [step_move hp, runMove, issueTransaction, if_neg hdetached]
  case recreated =>
    intro a b c rest ha hb hc hpa hpb
    rw [step_move hpa, step_move hpb]
    exact ⟨_, _, createDevice_eq_next_iff.2 ⟨ha, hc, rfl⟩, createDevice_eq_next_iff.2 ⟨hb, hc, rfl⟩,
      ⟨rfl, rfl, rfl, rfl, rfl, rfl, rfl⟩⟩

/-- Settles O4: the reset of an attached device is `zeroDevice`, whose Device State is that of creation. -/
theorem hardwareResetIsCreation : Obligations.HardwareResetIsCreation := by
  unfold Obligations.HardwareResetIsCreation
  intro s rest ha hp
  rw [step_move hp]
  have hdevice : SameDevice (s.setPending rest).zeroDevice (State.creation s.cfg) := ⟨rfl, rfl, rfl, rfl, rfl, rfl, rfl⟩
  exact ⟨_, hardwareReset_eq_next_iff.2 ⟨ha, rfl⟩, hdevice, rfl, rfl, rfl, ha, rfl, rfl, rfl⟩

/-- Settles O5: the store is `writeByte`, which is read back at its own address only. -/
theorem hostStoreChangesOneByte : Obligations.HostStoreChangesOneByte := by
  unfold Obligations.HostStoreChangesOneByte
  intro s a b rest hm hp hvalid
  rw [step_move hp]
  exact ⟨_, hostStore_eq_next_iff.2 ⟨hvalid, rfl⟩, Memory.writeByte_wf hm a b, Memory.readByte_writeByte_same hm a b,
    fun a' ha' => Memory.readByte_writeByte_other ha' b⟩

end Sys2Proof.Machine
end
